-- ==== Sys2Proof/Word.lean ====
section
/-!
DEFINITION. The two data widths of the block, the names of its registers and the tuple form of a host transaction.

Rules: R21 (the register map), R9 (every register is 32 bits, the buffer data port is 8 bits, an offset is 8 bits, an index is
32 bits), R90 (the seven kinds of transaction and their fields) and R97 (the encoding of a line of a host
program IS its transaction tuple).
-/
namespace Sys2Proof

/-- A 32-bit register, a command word, a buffer index (R9). -/
abbrev Word := BitVec 32

/-- One byte of a buffer (R9). -/
abbrev Byte := BitVec 8

/-- The registers of R21, in the order of their offsets. -/
inductive Reg where
  | cmd
  | status
  | srcOff
  | srcLen
  | type
  | flags
  | length
  | crcStored
  | crcComputed
  | consumed
  | outLen
  | crcState
  | crcIn8
  | crcIn32
  | crcOut
  | bufSize
  deriving DecidableEq, Repr

/-- A host transaction, as the tuple the host puts on the bus: exactly the seven kinds of R90, with
exactly the fields R90 gives each. -/
inductive Txn where
  /-- REG_RD(off) -/
  | regRd (off : BitVec 8)
  /-- REG_WR(off, data) -/
  | regWr (off : BitVec 8) (data : Word)
  /-- IBUF_RD(idx) -/
  | ibufRd (idx : Word)
  /-- IBUF_WR(idx, data) -/
  | ibufWr (idx : Word) (data : Byte)
  /-- OBUF_RD(idx) -/
  | obufRd (idx : Word)
  /-- OBUF_WR(idx, data) -/
  | obufWr (idx : Word) (data : Byte)
  /-- RESET -/
  | reset
  deriving DecidableEq, Repr

end Sys2Proof
end

