-- ==== Sys2Proof/Syntax.lean ====
section
/-!
DEFINITION. The instructions: one constructor per row of spec/opcode_table.json, in the table's order.

The table has two layers, and the constructors keep them apart.
* The rows of format CMD are the COMMANDS of R92 and R94: what the 32-bit data word of a REG_WR to CMD selects.
* The other rows are the TRANSACTIONS of R90; the REG_WR kind is split by the register its offset selects
  (R95, R224). The row WR_CMD is the transaction that carries a command word.

Offset bits [1:0] are part of a transaction and are ignored (R65). A constructor for one register slot
carries them as `low`, so that an instruction is a transaction and nothing of it is lost.
-/
namespace Sys2Proof

/-- One constructor per row of spec/opcode_table.json. -/
inductive Instr where
  /-- NOP, command word 0x00000000 (R221) -/
  | nop
  /-- CRC_INIT, command word 0x00000001 (R153) -/
  | crcInit
  /-- CRC_ACCUM, command word 0x00000002 (R154) -/
  | crcAccum
  /-- VALIDATE, command word 0x00000010 (R123) -/
  | validate
  /-- VALIDATE_STR, command word 0x00000011 (R124) -/
  | validateStr
  /-- PARSE, command word 0x00000020 (R181) -/
  | parse
  /-- SERIALIZE, command word 0x00000021 (R189) -/
  | serialize
  /-- ILLEGAL: every command word `v` that encodes no command (R94, R222) -/
  | illegal (v : Word)
  /-- WR_CMD: REG_WR with `off & 0xFC = 0x00`; `v` is the command word (R220) -/
  | wrCmd (low : BitVec 2) (v : Word)
  /-- WR_SRC_OFF: REG_WR with `off & 0xFC = 0x08` (R27, R224) -/
  | wrSrcOff (low : BitVec 2) (v : Word)
  /-- WR_SRC_LEN: REG_WR with `off & 0xFC = 0x0C` (R28, R224) -/
  | wrSrcLen (low : BitVec 2) (v : Word)
  /-- WR_TYPE: REG_WR with `off & 0xFC = 0x10` (R29, R224) -/
  | wrType (low : BitVec 2) (v : Word)
  /-- WR_CRC_STATE: REG_WR with `off & 0xFC = 0x2C` (R157) -/
  | wrCrcState (low : BitVec 2) (v : Word)
  /-- WR_CRC_IN8: REG_WR with `off & 0xFC = 0x30` (R155) -/
  | wrCrcIn8 (low : BitVec 2) (v : Word)
  /-- WR_CRC_IN32: REG_WR with `off & 0xFC = 0x34` (R156) -/
  | wrCrcIn32 (low : BitVec 2) (v : Word)
  /-- WR_IGNORED: REG_WR to a read-only, combinational, constant or reserved offset (R224) -/
  | wrIgnored (off : BitVec 8) (v : Word)
  /-- REG_RD at any offset (R223) -/
  | regRd (off : BitVec 8)
  /-- IBUF_RD (R225) -/
  | ibufRd (idx : Word)
  /-- IBUF_WR (R225) -/
  | ibufWr (idx : Word) (b : Byte)
  /-- OBUF_RD (R226) -/
  | obufRd (idx : Word)
  /-- OBUF_WR (R226) -/
  | obufWr (idx : Word) (b : Byte)
  /-- RESET: the transaction or the reset input (R270) -/
  | reset
  deriving DecidableEq, Repr

/-- The rows of format CMD: what a command word selects (R92, R94). -/
def Instr.isCommand : Instr → Bool
  | .nop => true
  | .crcInit => true
  | .crcAccum => true
  | .validate => true
  | .validateStr => true
  | .parse => true
  | .serialize => true
  | .illegal _ => true
  | .wrCmd _ _ => false
  | .wrSrcOff _ _ => false
  | .wrSrcLen _ _ => false
  | .wrType _ _ => false
  | .wrCrcState _ _ => false
  | .wrCrcIn8 _ _ => false
  | .wrCrcIn32 _ _ => false
  | .wrIgnored _ _ => false
  | .regRd _ => false
  | .ibufRd _ => false
  | .ibufWr _ _ => false
  | .obufRd _ => false
  | .obufWr _ _ => false
  | .reset => false

end Sys2Proof
end

