-- ==== Sys2Proof/WellFormed.lean ====
section
/-!
DEFINITION. Which terms of `Instr` are instructions of the block: an ILLEGAL row holds no assigned command
word (R92, R94), and a WR_IGNORED row holds an offset whose writes R224 says are ignored. Every other row
takes every value of its operands (R90, R91).
-/
namespace Sys2Proof

/-- The command words R92 assigns, in its order. -/
def assignedWords : List Word :=
  [0x00000000, 0x00000001, 0x00000002, 0x00000010, 0x00000011, 0x00000020, 0x00000021]

/-- The values of `off & 0xFC` below 0x40 whose writes are ignored (R224): STATUS, FLAGS, LENGTH, CRC_STORED,
CRC_COMPUTED, CONSUMED, OUT_LEN, CRC_OUT and BUF_SIZE. -/
def readOnlyOffsets : List (BitVec 8) :=
  [0x04, 0x14, 0x18, 0x1C, 0x20, 0x24, 0x28, 0x38, 0x3C]

/-- The offsets R224 says ignore a write: the nine above and every reserved offset 0x40 to 0xFC. -/
def ignoresWrite (off : BitVec 8) : Bool :=
  readOnlyOffsets.contains (off &&& 0xFC#8) || decide (0x40 ≤ off.toNat)

/-- The well-formed instructions: those a transaction or a command word encodes. -/
def WellFormed : Instr → Bool
  | .nop => true
  | .crcInit => true
  | .crcAccum => true
  | .validate => true
  | .validateStr => true
  | .parse => true
  | .serialize => true
  | .illegal v => !assignedWords.contains v
  | .wrCmd _ _ => true
  | .wrSrcOff _ _ => true
  | .wrSrcLen _ _ => true
  | .wrType _ _ => true
  | .wrCrcState _ _ => true
  | .wrCrcIn8 _ _ => true
  | .wrCrcIn32 _ _ => true
  | .wrIgnored off _ => ignoresWrite off
  | .regRd _ => true
  | .ibufRd _ => true
  | .ibufWr _ _ => true
  | .obufRd _ => true
  | .obufWr _ _ => true
  | .reset => true

end Sys2Proof
end

