-- ==== Sys2Proof/Decode.lean ====
section
/-!
DEFINITION. The decoder, in the two layers of the opcode table, and the encoder.

`decode` reads a transaction (R90, R95): total, since every transaction is admitted (R71, R249).
`decodeCommand` reads the data word of a REG_WR to CMD (R91, R92): total too, the words that encode no
command being the row ILLEGAL (R94). The block has no other encodings and no modes that change decoding (R96).
-/
namespace Sys2Proof

/-- The register slot of an offset, bits [7:2] (R95). -/
def offSlot (off : BitVec 8) : BitVec 6 := off.extractLsb' 2 6

/-- The ignored bits [1:0] of an offset (R65). -/
def offLow (off : BitVec 8) : BitVec 2 := off.extractLsb' 0 2

/-- Slot `k` at the offset pattern `off & 0xFC = 4k` (R95), with ignored bits `low`. -/
def offOf (slot : BitVec 6) (low : BitVec 2) : BitVec 8 := slot ++ low

/-- The command a command word selects (R92): a full match on all 32 bits, else ILLEGAL (R94). -/
def decodeCommand (v : Word) : Instr :=
  if v = 0x00000000#32 then .nop
  else if v = 0x00000001#32 then .crcInit
  else if v = 0x00000002#32 then .crcAccum
  else if v = 0x00000010#32 then .validate
  else if v = 0x00000011#32 then .validateStr
  else if v = 0x00000020#32 then .parse
  else if v = 0x00000021#32 then .serialize
  else .illegal v

/-- A register write, by the register slot its offset selects (R95, R224). -/
def decodeRegWr (off : BitVec 8) (data : Word) : Instr :=
  if offSlot off = 0x00#6 then .wrCmd (offLow off) data
  else if offSlot off = 0x02#6 then .wrSrcOff (offLow off) data
  else if offSlot off = 0x03#6 then .wrSrcLen (offLow off) data
  else if offSlot off = 0x04#6 then .wrType (offLow off) data
  else if offSlot off = 0x0B#6 then .wrCrcState (offLow off) data
  else if offSlot off = 0x0C#6 then .wrCrcIn8 (offLow off) data
  else if offSlot off = 0x0D#6 then .wrCrcIn32 (offLow off) data
  else .wrIgnored off data

/-- The instruction of a transaction (R90). -/
def decode : Txn → Instr
  | .regRd off => .regRd off
  | .regWr off data => decodeRegWr off data
  | .ibufRd idx => .ibufRd idx
  | .ibufWr idx data => .ibufWr idx data
  | .obufRd idx => .obufRd idx
  | .obufWr idx data => .obufWr idx data
  | .reset => .reset

/-- The command word of a command (R92); a transaction has none. -/
def encodeCommand : Instr → Option Word
  | .nop => some 0x00000000
  | .crcInit => some 0x00000001
  | .crcAccum => some 0x00000002
  | .validate => some 0x00000010
  | .validateStr => some 0x00000011
  | .parse => some 0x00000020
  | .serialize => some 0x00000021
  | .illegal v => some v
  | .wrCmd _ _ => none
  | .wrSrcOff _ _ => none
  | .wrSrcLen _ _ => none
  | .wrType _ _ => none
  | .wrCrcState _ _ => none
  | .wrCrcIn8 _ _ => none
  | .wrCrcIn32 _ _ => none
  | .wrIgnored _ _ => none
  | .regRd _ => none
  | .ibufRd _ => none
  | .ibufWr _ _ => none
  | .obufRd _ => none
  | .obufWr _ _ => none
  | .reset => none

/-- The transaction of an instruction (R90, R95). A command is written to CMD at offset 0x00, as the
pseudo-instruction `cmd` of R98 writes it. -/
def encode : Instr → Txn
  | .nop => .regWr 0x00 0x00000000
  | .crcInit => .regWr 0x00 0x00000001
  | .crcAccum => .regWr 0x00 0x00000002
  | .validate => .regWr 0x00 0x00000010
  | .validateStr => .regWr 0x00 0x00000011
  | .parse => .regWr 0x00 0x00000020
  | .serialize => .regWr 0x00 0x00000021
  | .illegal v => .regWr 0x00 v
  | .wrCmd low v => .regWr (offOf 0x00 low) v
  | .wrSrcOff low v => .regWr (offOf 0x02 low) v
  | .wrSrcLen low v => .regWr (offOf 0x03 low) v
  | .wrType low v => .regWr (offOf 0x04 low) v
  | .wrCrcState low v => .regWr (offOf 0x0B low) v
  | .wrCrcIn8 low v => .regWr (offOf 0x0C low) v
  | .wrCrcIn32 low v => .regWr (offOf 0x0D low) v
  | .wrIgnored off v => .regWr off v
  | .regRd off => .regRd off
  | .ibufRd idx => .ibufRd idx
  | .ibufWr idx b => .ibufWr idx b
  | .obufRd idx => .obufRd idx
  | .obufWr idx b => .obufWr idx b
  | .reset => .reset

/-- The instruction the bits of an opcode-table row decode to (log entry 4). The table numbers a row's bits
within its own format: a row of format CMD has the 32 bits of a command word, a row of format REG_WR with a
match has the 8 bits of the offset (the data word being zeros), and the row RESET has no bits. No other
number of bits is a row's. -/
def decodeTableWord (nbits w : Nat) : Option Instr :=
  if nbits = 32 then some (decodeCommand (BitVec.ofNat 32 w))
  else if nbits = 8 then some (decode (.regWr (BitVec.ofNat 8 w) 0))
  else if nbits = 0 then some (decode .reset)
  else none

/-- The transaction that carries the same bits to the block (log entry 4): a command word is the data of a
REG_WR to CMD (R90). -/
def tableTxn (nbits w : Nat) : Option Txn :=
  if nbits = 32 then some (.regWr 0x00 (BitVec.ofNat 32 w))
  else if nbits = 8 then some (.regWr (BitVec.ofNat 8 w) 0)
  else if nbits = 0 then some .reset
  else none

end Sys2Proof
end

