-- ==== Sys2Proof/Machine/Operands.lean ====
section
/-!
DEFINITION. The byte order of words (R11, R12, R61 to R63) and the CRC-32 function (R150, R151).
-/
namespace Sys2Proof.Machine

/-- `BE32` of four bytes (R11): the first byte in the stream is bits [31:24] (R61). -/
def be32 (b0 b1 b2 b3 : Byte) : Word := b0 ++ b1 ++ b2 ++ b3

/-- `TYPE_BYTE(t, i)` for `i` in 0..3 (R12): bits `[31−8i : 24−8i]`, so byte 0 is bits [31:24] (R29). -/
def typeByte (t : Word) (i : Fin 4) : Byte := t.extractLsb' (24 - 8 * i.val) 8

/-- `BYTES_BE32(v)` (R11): `v[31:24], v[23:16], v[15:8], v[7:0]`. -/
def bytesBE32 (v : Word) : List Byte :=
  [v.extractLsb' 24 8, v.extractLsb' 16 8, v.extractLsb' 8 8, v.extractLsb' 0 8]

/-- One of the eight repetitions of `CRC_UPDATE` (R150), with the reflected polynomial 0xEDB88320. -/
def crcShift (c : Word) : Word :=
  if c.getLsbD 0 then (c >>> 1) ^^^ 0xEDB88320#32 else c >>> 1

/-- `CRC_UPDATE(c, b)` (R150): the byte enters bits [7:0], then eight repetitions. -/
def crcUpdate (c : Word) (b : Byte) : Word :=
  crcShift (crcShift (crcShift (crcShift (crcShift (crcShift (crcShift (crcShift
    (c ^^^ b.setWidth 32))))))))

/-- `CRC_UPDATE` over the bytes of `bs`, first byte first: the loop of R151 and R154. -/
def crcFeed (c : Word) (bs : List Byte) : Word := bs.foldl crcUpdate c

/-- `CRC32(s)` (R151): initial value and final exclusive-or 0xFFFFFFFF. -/
def crc32 (bs : List Byte) : Word := crcFeed 0xFFFFFFFF#32 bs ^^^ 0xFFFFFFFF#32

end Sys2Proof.Machine
end

