-- ==== Sys2Proof/Machine/Flags.lean ====
section
/-!
DEFINITION. The type-code validator's functions: the range predicate, the mask of failing positions and the
combinational register FLAGS (R120, R121, R123).
-/
namespace Sys2Proof.Machine

/-- `LETTER(b)` (R120): 0x41..0x5A or 0x61..0x7A. -/
def letter (b : Byte) : Bool :=
  (decide (0x41 ≤ b.toNat) && decide (b.toNat ≤ 0x5A))
    || (decide (0x61 ≤ b.toNat) && decide (b.toNat ≤ 0x7A))

/-- Bit `i` of the mask of R123 and R124: set when the byte at position `i` is not a letter byte. -/
def outOfRange (b : Byte) (i : Nat) : Byte := if letter b then 0 else 1#8 <<< i

/-- The mask `m` of R123 and R124 for the four bytes of a type code, in stream order. -/
def rangeMask (b0 b1 b2 b3 : Byte) : Byte :=
  outOfRange b0 0 ||| outOfRange b1 1 ||| outOfRange b2 2 ||| outOfRange b3 3

/-- The mask of the four bytes of TYPE (R123). -/
def typeMask (t : Word) : Byte :=
  rangeMask (typeByte t 0) (typeByte t 1) (typeByte t 2) (typeByte t 3)

/-- CRITICAL (R121): bit 5 of byte 0 is 0, whatever the byte is (C5, D10). -/
def flagCritical (t : Word) : Bool := !(typeByte t 0).getLsbD 5

/-- PUBLIC (R121): bit 5 of byte 1 is 0. -/
def flagPublic (t : Word) : Bool := !(typeByte t 1).getLsbD 5

/-- RESERVED_VALID (R121): bit 5 of byte 2 is 0. -/
def flagReservedValid (t : Word) : Bool := !(typeByte t 2).getLsbD 5

/-- SAFE_TO_COPY (R121): bit 5 of byte 3 is 1. -/
def flagSafeToCopy (t : Word) : Bool := (typeByte t 3).getLsbD 5

/-- IN_RANGE[i] (R121). -/
def flagInRange (t : Word) (i : Fin 4) : Bool := letter (typeByte t i)

/-- RANGE_OK (R121): all four bytes are letter bytes. -/
def flagRangeOk (t : Word) : Bool :=
  flagInRange t 0 && flagInRange t 1 && flagInRange t 2 && flagInRange t 3

/-- VALID (R121, R122): the reserved-bit check and the range check, both. -/
def flagValid (t : Word) : Bool := flagReservedValid t && flagRangeOk t

/-- A one-bit field at bit `i` of a register. -/
def bitAt (b : Bool) (i : Nat) : Word := if b then 1#32 <<< i else 0

/-- FLAGS as a function of TYPE (R121), with the bit positions of R30. -/
def flagsOf (t : Word) : Word :=
  bitAt (flagCritical t) 0 ||| bitAt (flagPublic t) 1 ||| bitAt (flagReservedValid t) 2
    ||| bitAt (flagSafeToCopy t) 3 ||| bitAt (flagRangeOk t) 4 ||| bitAt (flagValid t) 5
    ||| bitAt (flagInRange t 0) 8 ||| bitAt (flagInRange t 1) 9
    ||| bitAt (flagInRange t 2) 10 ||| bitAt (flagInRange t 3) 11

end Sys2Proof.Machine
end

