-- ==== Sys2Proof/Config.lean ====
section
/-!
DEFINITION. What an implementation of the block fixes (R10: `BUF_BYTES` and `LATENCY`), and the one free
value of the model: the unspecified contents of the two buffers at power-on (R271, 93_implementation_defined.md I5).
-/
namespace Sys2Proof

/-- The two byte buffers of the block (R39, R40). They are separate memories. -/
inductive Buffer where
  | ibuf
  | obuf
  deriving DecidableEq, Repr

/-- The implementation parameters of R10. A statement about every state is a statement about every value
of them, since a state carries the parameters of the block it is a state of (log entry 1). -/
structure Config where
  /-- `BUF_BYTES`: the size in bytes of IBUF and, equally, of OBUF (R10; OPEN, D5). -/
  bufBytes : Nat
  /-- `LATENCY`: the stall of a CMD write in bus cycles (R10; OPEN, D33). No rule reads it (R280). -/
  latency : Nat
  deriving DecidableEq, Repr

/-- The legal range of R10: `12 ≤ BUF_BYTES ≤ 2^32 − 1`; every `LATENCY` is legal. -/
abbrev Config.legal (c : Config) : Prop := 12 ≤ c.bufBytes ∧ c.bufBytes ≤ 2 ^ 32 - 1

/-- The parameters of `State.reset`. DESIGN CHOICE (log entry 1): `BUF_BYTES = 64` is the value every test
vector of 95_test_vectors.md takes; the spec leaves it open, and no statement rests on it. -/
def Config.vectors : Config := { bufBytes := 64, latency := 0 }

/-- FREE VALUE (log entry 2; R271, I5). The byte that draw number `draw` of the power-on contents put at
index `i` of buffer `b`: some value in 0x00..0xFF that no rule fixes. It has no body, so nothing in Lean
can evaluate it. It is a function of the draw, the buffer and the index alone, so it is drawn once per
byte and stable until the byte is written. -/
opaque Config.powerOnByte (draw : Nat) (b : Buffer) (i : Nat) : Byte

end Sys2Proof
end

