-- ==== Sys2Proof/Machine/State.lean ====
section
/-!
DEFINITION. The state of the block (R20), the state at power-on and after RESET (R43, R270, R271), and the
reasons a step can stop.

The block's own state is the first fourteen fields. The last four are the MODEL's own (log entries 1, 2, 3):
the parameters, the number of the power-on draw, the transactions the host has issued and the block has not
taken yet, and the result the last transaction gave the host.
-/
namespace Sys2Proof.Machine

/-- The written bytes of one buffer, as (index, byte) pairs. An index that is not listed has not been
written since power-on. -/
abbrev Memory := List Host.Cell

/-- The canonical form: indices strictly rising. An unlisted index stores nothing (it reads as the free
value of R271), so no entry can equal what an unlisted index holds, and equal memories are equal lists. -/
abbrev Memory.wf (m : Memory) : Prop := m.Pairwise (fun c d => c.1 < d.1)

/-- Every listed index is an index of a buffer of `n` bytes (R39, R40). -/
abbrev Memory.within (m : Memory) (n : Nat) : Prop := ∀ c ∈ m, c.1 < n

/-- What a transaction gives the host (the result column of R90). -/
inductive Response where
  /-- a write or RESET: no result -/
  | none
  /-- REG_RD: `data`, 32 bits -/
  | word (v : Word)
  /-- IBUF_RD, OBUF_RD: `data`, 8 bits -/
  | byte (b : Byte)
  deriving DecidableEq, Repr

/-- The result codes of R24. Codes 7 to 15 are never produced. -/
inductive Code where
  | ok
  | invalidTypeCode
  | truncated
  | crcMismatch
  | outputOverflow
  | badRegion
  | illegalCommand
  deriving DecidableEq, Repr

/-- The state of the block (R13, R20), with the model's own four fields last. -/
structure State where
  /-- STATUS.CODE, bits [3:0] (R23, R24) -/
  statusCode : BitVec 4
  /-- STATUS.DETAIL, bits [15:8] (R23, R25) -/
  statusDetail : BitVec 8
  /-- STATUS.OP, bits [23:16] (R23, R26) -/
  statusOp : BitVec 8
  /-- SRC_OFF, offset 0x08 (R27) -/
  srcOff : Word
  /-- SRC_LEN, offset 0x0C (R28) -/
  srcLen : Word
  /-- TYPE, offset 0x10 (R29) -/
  typeReg : Word
  /-- LENGTH, offset 0x18 (R31) -/
  length : Word
  /-- CRC_STORED, offset 0x1C (R32) -/
  crcStored : Word
  /-- CRC_COMPUTED, offset 0x20 (R33) -/
  crcComputed : Word
  /-- CONSUMED, offset 0x24 (R34) -/
  consumed : Word
  /-- OUT_LEN, offset 0x28 (R35) -/
  outLen : Word
  /-- CRC_STATE, offset 0x2C (R36) -/
  crcState : Word
  /-- IBUF: the bytes written since power-on (R39) -/
  ibuf : Memory
  /-- OBUF: the bytes written since power-on (R40) -/
  obuf : Memory
  /-- MODEL: the implementation parameters (R10); no step changes them (log entry 1) -/
  config : Config
  /-- MODEL: which draw the unspecified buffer bytes are; no step changes it (log entry 2) -/
  powerOnDraw : Nat
  /-- MODEL: the host's transactions, oldest first; a step takes the first (R72; log entry 3) -/
  pending : List Txn
  /-- MODEL: the result of the last transaction taken (R90; log entry 3) -/
  response : Response
  deriving DecidableEq, Repr

/-- The machine stops with a fault: never. The block has no traps, no access faults and no stuck state: every
transaction has a defined result (R240, R280, D4), so the type has no constructors. -/
inductive Fault where
  deriving DecidableEq, Repr

/-- Reasons for which the model gives an instruction no meaning. -/
inductive Refusal where
  /-- The instruction of this name has no meaning yet. Raised by `exec` alone, in the arm of a constructor
  whose meaning is not written (none is left). Safe. -/
  | notModelled (mnemonic : String)
  deriving DecidableEq, Repr

/-- Power-on of a block with parameters `c` and power-on contents `draw` (R271, R43): every register at its
reset value, no byte of a buffer written, the host not having issued anything. -/
def State.powerOn (c : Config) (draw : Nat) : State where
  statusCode := 0x0
  statusDetail := 0x00
  statusOp := 0x00
  srcOff := 0x00000000
  srcLen := 0x00000000
  typeReg := 0x00000000
  length := 0x00000000
  crcStored := 0x00000000
  crcComputed := 0x00000000
  consumed := 0x00000000
  outLen := 0x00000000
  crcState := 0xFFFFFFFF
  ibuf := []
  obuf := []
  config := c
  powerOnDraw := draw
  pending := []
  response := .none

/-- The machine right after reset (R43, R271). The registers are as the spec states; the parameters and the
number of the draw are the model's choice (log entries 1 and 2). -/
def State.reset : State := State.powerOn Config.vectors 0

end Sys2Proof.Machine
end

