-- ==== Sys2Proof/Machine/Ops.lean ====
section
/-!
DEFINITION. The named operations every meaning is written over: buffers, STATUS and its one shared failure
operation, registers, the region of a command, and taking the host's next transaction.

`raise` stands where a processor would have exception entry: every failure of the block is a STATUS value
(R240, R242). There is no trap entry and no return (R247), so nothing stands beside it but `finish`.
-/
namespace Sys2Proof.Machine

/-! ## Buffers -/

/-- The byte stored at an index, or nothing where no byte has been written since power-on. -/
def Memory.get? : Memory → Nat → Option Byte
  | [], _ => none
  | (k, v) :: m, i => if k = i then some v else Memory.get? m i

/-- The byte of buffer `b` at an index: the byte stored there, or, where nothing has been written since
power-on, the free value of R271 (I5, log entry 2). -/
def Memory.read (m : Memory) (draw : Nat) (b : Buffer) (i : Nat) : Byte :=
  (Memory.get? m i).getD (Config.powerOnByte draw b i)

/-- The `n` bytes of buffer `b` from an index up. -/
def Memory.readRun (m : Memory) (draw : Nat) (b : Buffer) : Nat → Nat → List Byte
  | _, 0 => []
  | a, n + 1 => Memory.read m draw b a :: Memory.readRun m draw b (a + 1) n

/-- Store one byte, keeping the indices strictly rising. -/
def Memory.write : Memory → Nat → Byte → Memory
  | [], i, b => [(i, b)]
  | (k, v) :: m, i, b =>
    if i < k then (i, b) :: (k, v) :: m
    else if i = k then (i, b) :: m
    else (k, v) :: Memory.write m i b

/-- `MemWrite(·, a, n, s)` (R12): the bytes of `s` at `a`, `a + 1`, …. -/
def Memory.writeAll : Memory → Nat → List Byte → Memory
  | m, _, [] => m
  | m, a, b :: bs => Memory.writeAll (Memory.write m a b) (a + 1) bs

/-- The written bytes of one buffer. -/
def State.mem (s : State) : Buffer → Memory
  | .ibuf => s.ibuf
  | .obuf => s.obuf

/-- Replace the written bytes of one buffer; IBUF and OBUF never alias (R40). -/
def State.setMem (s : State) : Buffer → Memory → State
  | .ibuf, m => { s with ibuf := m }
  | .obuf, m => { s with obuf := m }

/-- The byte a buffer holds at an index. -/
def State.readByte (s : State) (b : Buffer) (i : Nat) : Byte := Memory.read (s.mem b) s.powerOnDraw b i

/-- `MemRead(b, a, n)` (R12): the `n` bytes from index `a` up. -/
def State.memRead (s : State) (b : Buffer) (a n : Nat) : List Byte :=
  Memory.readRun (s.mem b) s.powerOnDraw b a n

/-- `BE32(MemRead(b, a, 4))` (R12). -/
def State.readBE32 (s : State) (b : Buffer) (a : Nat) : Word :=
  be32 (s.readByte b a) (s.readByte b (a + 1)) (s.readByte b (a + 2)) (s.readByte b (a + 3))

/-- `MemWrite(b, a, |bs|, bs)` (R12). -/
def State.memWrite (s : State) (b : Buffer) (a : Nat) (bs : List Byte) : State :=
  s.setMem b (Memory.writeAll (s.mem b) a bs)

/-- A host read of a buffer (R225, R226): 0x00 at an index the buffer does not have. -/
def State.hostRead (s : State) (b : Buffer) (idx : Word) : Byte :=
  if idx.toNat < s.config.bufBytes then s.readByte b idx.toNat else 0x00

/-- A host write of a buffer (R225, R226): ignored at an index the buffer does not have. -/
def State.hostWrite (s : State) (b : Buffer) (idx : Word) (v : Byte) : State :=
  if idx.toNat < s.config.bufBytes then s.setMem b (Memory.write (s.mem b) idx.toNat v) else s

/-! ## STATUS: the end of every command -/

/-- STATUS.CODE of a result code (R24). -/
def Code.bits : Code → BitVec 4
  | .ok => 0
  | .invalidTypeCode => 1
  | .truncated => 2
  | .crcMismatch => 3
  | .outputOverflow => 4
  | .badRegion => 5
  | .illegalCommand => 6

/-- `reg[STATUS].OP <- op`, that field alone (R12, R26, R220). -/
def State.setOp (s : State) (op : BitVec 8) : State := { s with statusOp := op }

/-- `raise STATUS_ERR(code, detail)` (R242): CODE and DETAIL, that is all. -/
def State.raise (s : State) (code : Code) (detail : Byte) : State :=
  { s with statusCode := code.bits, statusDetail := detail }

/-- `finish OK` (R242): the same with code 0 and detail 0. -/
def State.finish (s : State) : State := s.raise .ok 0

/-! ## Registers -/

/-- The STATUS word (R23); bits [31:24] and [7:4] are hardwired zero. -/
def State.statusWord (s : State) : Word :=
  0#8 ++ s.statusOp ++ s.statusDetail ++ 0#4 ++ s.statusCode

/-- What a REG_RD returns (R223), by the register slot `off & 0xFC = 4k` of R21. -/
def State.regRead (s : State) (off : BitVec 8) : Word :=
  let k := offSlot off
  if k = 0x01#6 then s.statusWord
  else if k = 0x02#6 then s.srcOff
  else if k = 0x03#6 then s.srcLen
  else if k = 0x04#6 then s.typeReg
  else if k = 0x05#6 then flagsOf s.typeReg
  else if k = 0x06#6 then s.length
  else if k = 0x07#6 then s.crcStored
  else if k = 0x08#6 then s.crcComputed
  else if k = 0x09#6 then s.consumed
  else if k = 0x0A#6 then s.outLen
  else if k = 0x0B#6 then s.crcState
  else if k = 0x0E#6 then s.crcState ^^^ 0xFFFFFFFF#32
  else if k = 0x0F#6 then BitVec.ofNat 32 s.config.bufBytes
  else 0x00000000#32

/-- Every stored register at its reset value, the buffers unchanged (R270, R43). -/
def State.resetRegisters (s : State) : State :=
  { s with
    statusCode := 0x0
    statusDetail := 0x00
    statusOp := 0x00
    srcOff := 0x00000000
    srcLen := 0x00000000
    typeReg := 0x00000000
    length := 0x00000000
    crcStored := 0x00000000
    crcComputed := 0x00000000
    consumed := 0x00000000
    outLen := 0x00000000
    crcState := 0xFFFFFFFF }

/-! ## The region of a command -/

/-- The region leaves IBUF (R77): `SRC_OFF + SRC_LEN > BUF_BYTES`, without wrap-around (R28). -/
def State.regionBad (s : State) : Bool :=
  decide (s.config.bufBytes < s.srcOff.toNat + s.srcLen.toNat)

/-- The bytes `IBUF[SRC_OFF, SRC_OFF + SRC_LEN)` (R28). -/
def State.region (s : State) : List Byte := s.memRead .ibuf s.srcOff.toNat s.srcLen.toNat

/-! ## The host -/

/-- Give the host a result (R90). -/
def State.respond (s : State) (r : Response) : State := { s with response := r }

/-- The block takes the host's oldest transaction, leaving `rest`; until the transaction gives a result
there is none (R72, R90; log entry 3). -/
def State.accept (s : State) (rest : List Txn) : State :=
  { s with pending := rest, response := .none }

/-- The next transaction, with the state in which it runs; nothing where the host has issued none. -/
def State.fetch (s : State) : Option (Txn × State) :=
  match s.pending with
  | [] => none
  | t :: rest => some (t, s.accept rest)

end Sys2Proof.Machine
end

