-- ==== Sys2Proof/Machine/Crc.lean ====
section
/-!
DEFINITION. The host's access to the CRC generator (41_crc.md): CRC_INIT, CRC_ACCUM and the writes of CRC_STATE,
CRC_IN8 and CRC_IN32.
-/
namespace Sys2Proof.Machine

/-- CRC_INIT, the pseudocode of R153. -/
def runCrcInit (s : State) : State := State.finish { s with crcState := 0xFFFFFFFF }

/-- CRC_ACCUM, the pseudocode of R154: it continues from the present CRC_STATE. -/
def runCrcAccum (s : State) : State :=
  if s.regionBad then s.raise .badRegion 0
  else State.finish { s with crcState := crcFeed s.crcState s.region }

/-- CRC_INIT (R153); STATUS.OP is 0x01 (R26). -/
def execCrcInit (s : State) : Host.Outcome State Fault Refusal :=
  .next (runCrcInit (s.setOp 0x01))

/-- CRC_ACCUM (R154); STATUS.OP is 0x02 (R26). -/
def execCrcAccum (s : State) : Host.Outcome State Fault Refusal :=
  .next (runCrcAccum (s.setOp 0x02))

/-- WR_CRC_STATE: `reg[CRC_STATE] <- v` (R157). -/
def execWrCrcState (_low : BitVec 2) (v : Word) (s : State) : Host.Outcome State Fault Refusal :=
  .next { s with crcState := v }

/-- WR_CRC_IN8: bits [7:0] of `v` enter the CRC, bits [31:8] are ignored (R155). -/
def execWrCrcIn8 (_low : BitVec 2) (v : Word) (s : State) : Host.Outcome State Fault Refusal :=
  .next { s with crcState := crcUpdate s.crcState (v.extractLsb' 0 8) }

/-- WR_CRC_IN32: four bytes enter the CRC, bits [31:24] first (R156, R63). -/
def execWrCrcIn32 (_low : BitVec 2) (v : Word) (s : State) : Host.Outcome State Fault Refusal :=
  .next { s with crcState := crcFeed s.crcState (bytesBE32 v) }

end Sys2Proof.Machine
end

