-- ==== Sys2Proof/Machine/Frame.lean ====
section
/-!
DEFINITION. The chunk frame parser and serializer (42_frame.md): PARSE and SERIALIZE.
-/
namespace Sys2Proof.Machine

/-- PARSE from the step that reads the type code on (R181): `len` has passed the bound check. -/
def parseBody (len : Nat) (s : State) : State :=
  let off := s.srcOff.toNat
  let t := s.memRead .ibuf (off + 4) 4
  let p := s.memRead .ibuf (off + 8) len
  let stored := s.readBE32 .ibuf (off + 8 + len)
  let computed := crc32 (t ++ p)
  let s1 : State :=
    { s with
      length := BitVec.ofNat 32 len
      typeReg := s.readBE32 .ibuf (off + 4)
      crcStored := stored
      crcComputed := computed }
  if stored ≠ computed then s1.raise .crcMismatch 0
  else State.finish { s1 with consumed := BitVec.ofNat 32 (12 + len) }

/-- PARSE, the pseudocode of R181: CONSUMED is cleared, then the checks in their order. `12 + len` is a
natural number, so a length field near 2^32 does not wrap. -/
def runParse (s0 : State) : State :=
  let s : State := { s0 with consumed := 0 }
  if s.regionBad then s.raise .badRegion 0
  else if s.srcLen.toNat < 12 then s.raise .truncated 0x01
  else
    let len := (s.readBE32 .ibuf s.srcOff.toNat).toNat
    if s.srcLen.toNat < 12 + len then s.raise .truncated 0x02
    else parseBody len s

/-- SERIALIZE once its checks have passed (R189): the four writes to OBUF, then the result registers. -/
def serializeBody (s : State) : State :=
  let n := s.srcLen.toNat
  let t := bytesBE32 s.typeReg
  let p := s.region
  let c := crc32 (t ++ p)
  let s1 := s.memWrite .obuf 0 (bytesBE32 s.srcLen)
  let s2 := s1.memWrite .obuf 4 t
  let s3 := s2.memWrite .obuf 8 p
  let s4 := s3.memWrite .obuf (8 + n) (bytesBE32 c)
  State.finish
    { s4 with
      length := BitVec.ofNat 32 n
      crcStored := c
      crcComputed := c
      outLen := BitVec.ofNat 32 (12 + n) }

/-- SERIALIZE, the pseudocode of R189: OUT_LEN is cleared, then the region check, then the capacity check. -/
def runSerialize (s0 : State) : State :=
  let s : State := { s0 with outLen := 0 }
  if s.regionBad then s.raise .badRegion 0
  else if s.config.bufBytes < 12 + s.srcLen.toNat then s.raise .outputOverflow 0
  else serializeBody s

/-- PARSE (R181); STATUS.OP is 0x20 (R26). -/
def execParse (s : State) : Host.Outcome State Fault Refusal :=
  .next (runParse (s.setOp 0x20))

/-- SERIALIZE (R189); STATUS.OP is 0x21 (R26). -/
def execSerialize (s : State) : Host.Outcome State Fault Refusal :=
  .next (runSerialize (s.setOp 0x21))

end Sys2Proof.Machine
end

