-- ==== Sys2Proof/Machine/TypeCode.lean ====
section
/-!
DEFINITION. The type-code commands VALIDATE and VALIDATE_STR (40_typecode.md), and the write of TYPE.
-/
namespace Sys2Proof.Machine

/-- VALIDATE, the pseudocode of R123: the range check of the four bytes of TYPE. -/
def runValidate (s : State) : State :=
  if typeMask s.typeReg ≠ 0 then s.raise .invalidTypeCode (typeMask s.typeReg) else s.finish

/-- VALIDATE_STR, the pseudocode of R124: region, then length, then TYPE is loaded, then the range check. -/
def runValidateStr (s : State) : State :=
  if s.regionBad then s.raise .badRegion 0
  else if s.srcLen.toNat ≠ 4 then s.raise .invalidTypeCode 0x10
  else
    let b0 := s.readByte .ibuf s.srcOff.toNat
    let b1 := s.readByte .ibuf (s.srcOff.toNat + 1)
    let b2 := s.readByte .ibuf (s.srcOff.toNat + 2)
    let b3 := s.readByte .ibuf (s.srcOff.toNat + 3)
    let s1 : State := { s with typeReg := be32 b0 b1 b2 b3 }
    if rangeMask b0 b1 b2 b3 ≠ 0 then s1.raise .invalidTypeCode (rangeMask b0 b1 b2 b3) else s1.finish

/-- VALIDATE (R123); STATUS.OP is 0x10 (R26). -/
def execValidate (s : State) : Host.Outcome State Fault Refusal :=
  .next (runValidate (s.setOp 0x10))

/-- VALIDATE_STR (R124); STATUS.OP is 0x11 (R26). -/
def execValidateStr (s : State) : Host.Outcome State Fault Refusal :=
  .next (runValidateStr (s.setOp 0x11))

/-- WR_TYPE: store `v`; nothing is checked, and FLAGS follows at once (R29, R224). -/
def execWrType (_low : BitVec 2) (v : Word) (s : State) : Host.Outcome State Fault Refusal :=
  .next { s with typeReg := v }

end Sys2Proof.Machine
end

