-- ==== Sys2Proof/Machine/Control.lean ====
section
/-!
DEFINITION. Command dispatch, NOP, the illegal command, the plain register and buffer transactions
(43_control.md) and RESET (70_reset_and_hazards.md).
-/
namespace Sys2Proof.Machine

/-- NOP, the pseudocode of R221. -/
def runNop (s : State) : State := s.finish

/-- `ILLEGAL(d)` of R222. -/
def runIllegal (d : Byte) (s : State) : State := s.raise .illegalCommand d

/-- The dispatch of R220 for a command word with RESV = 0, by its OPCODE. -/
def runOpcode (op : BitVec 8) (s : State) : State :=
  if op = 0x00#8 then runNop s
  else if op = 0x01#8 then runCrcInit s
  else if op = 0x02#8 then runCrcAccum s
  else if op = 0x10#8 then runValidate s
  else if op = 0x11#8 then runValidateStr s
  else if op = 0x20#8 then runParse s
  else if op = 0x21#8 then runSerialize s
  else runIllegal 0x01 s

/-- A write of `v` to CMD (R220): STATUS.OP first, then RESV, then the OPCODE. -/
def runCommand (v : Word) (s : State) : State :=
  let s1 := s.setOp (v.extractLsb' 0 8)
  if v.extractLsb' 8 24 ≠ 0 then runIllegal 0x02 s1 else runOpcode (v.extractLsb' 0 8) s1

/-- NOP (R221); STATUS.OP is 0x00 (R26). -/
def execNop (s : State) : Host.Outcome State Fault Refusal :=
  .next (runNop (s.setOp 0x00))

/-- ILLEGAL (R222): the DETAIL is 0x02 when RESV is not zero and 0x01 otherwise; STATUS.OP is `v[7:0]` (R26). -/
def execIllegal (v : Word) (s : State) : Host.Outcome State Fault Refusal :=
  .next (runIllegal (if v.extractLsb' 8 24 ≠ 0 then 0x02 else 0x01) (s.setOp (v.extractLsb' 0 8)))

/-- WR_CMD: run the command of the word written, within the transaction (R220, R8). -/
def execWrCmd (_low : BitVec 2) (v : Word) (s : State) : Host.Outcome State Fault Refusal :=
  .next (runCommand v s)

/-- WR_SRC_OFF: store `v` (R27, R224). -/
def execWrSrcOff (_low : BitVec 2) (v : Word) (s : State) : Host.Outcome State Fault Refusal :=
  .next { s with srcOff := v }

/-- WR_SRC_LEN: store `v` (R28, R224). -/
def execWrSrcLen (_low : BitVec 2) (v : Word) (s : State) : Host.Outcome State Fault Refusal :=
  .next { s with srcLen := v }

/-- WR_IGNORED: a write to a read-only, combinational, constant or reserved offset changes nothing (R224). -/
def execWrIgnored (_off : BitVec 8) (_v : Word) (s : State) : Host.Outcome State Fault Refusal :=
  .next s

/-- REG_RD: the host gets the register's value; no other state changes (R223, R68). -/
def execRegRd (off : BitVec 8) (s : State) : Host.Outcome State Fault Refusal :=
  .next (s.respond (.word (s.regRead off)))

/-- IBUF_RD (R225). -/
def execIbufRd (idx : Word) (s : State) : Host.Outcome State Fault Refusal :=
  .next (s.respond (.byte (s.hostRead .ibuf idx)))

/-- IBUF_WR (R225). -/
def execIbufWr (idx : Word) (b : Byte) (s : State) : Host.Outcome State Fault Refusal :=
  .next (s.hostWrite .ibuf idx b)

/-- OBUF_RD (R226). -/
def execObufRd (idx : Word) (s : State) : Host.Outcome State Fault Refusal :=
  .next (s.respond (.byte (s.hostRead .obuf idx)))

/-- OBUF_WR (R226). -/
def execObufWr (idx : Word) (b : Byte) (s : State) : Host.Outcome State Fault Refusal :=
  .next (s.hostWrite .obuf idx b)

/-- RESET (R270): every stored register to its reset value of R43; IBUF and OBUF are unchanged. -/
def execReset (s : State) : Host.Outcome State Fault Refusal :=
  .next s.resetRegisters

end Sys2Proof.Machine
end

