-- ==== Sys2Proof/Machine/Dispatch.lean ====
section
/-!
DEFINITION. One arm per row of spec/opcode_table.json.
-/
namespace Sys2Proof.Machine

def exec (i : Instr) (s : State) : Host.Outcome State Fault Refusal :=
  match i with
  | .nop => Sys2Proof.Machine.execNop s
  | .crcInit => Sys2Proof.Machine.execCrcInit s
  | .crcAccum => Sys2Proof.Machine.execCrcAccum s
  | .validate => Sys2Proof.Machine.execValidate s
  | .validateStr => Sys2Proof.Machine.execValidateStr s
  | .parse => Sys2Proof.Machine.execParse s
  | .serialize => Sys2Proof.Machine.execSerialize s
  | .illegal v => Sys2Proof.Machine.execIllegal v s
  | .wrCmd low v => Sys2Proof.Machine.execWrCmd low v s
  | .wrSrcOff low v => Sys2Proof.Machine.execWrSrcOff low v s
  | .wrSrcLen low v => Sys2Proof.Machine.execWrSrcLen low v s
  | .wrType low v => Sys2Proof.Machine.execWrType low v s
  | .wrCrcState low v => Sys2Proof.Machine.execWrCrcState low v s
  | .wrCrcIn8 low v => Sys2Proof.Machine.execWrCrcIn8 low v s
  | .wrCrcIn32 low v => Sys2Proof.Machine.execWrCrcIn32 low v s
  | .wrIgnored off v => Sys2Proof.Machine.execWrIgnored off v s
  | .regRd off => Sys2Proof.Machine.execRegRd off s
  | .ibufRd idx => Sys2Proof.Machine.execIbufRd idx s
  | .ibufWr idx b => Sys2Proof.Machine.execIbufWr idx b s
  | .obufRd idx => Sys2Proof.Machine.execObufRd idx s
  | .obufWr idx b => Sys2Proof.Machine.execObufWr idx b s
  | .reset => Sys2Proof.Machine.execReset s

end Sys2Proof.Machine
end

