-- ==== Sys2Proof/Machine/Step.lean ====
section
/-!
DEFINITION. One step: the block takes the host's oldest transaction and runs it whole (R7, R8, R67, R72).
-/
namespace Sys2Proof.Machine

/-- One step. Where the host has issued nothing, the block does nothing: it never acts on its own (R7), and
every state between transactions is final (R281). -/
def step (s : State) : Host.Outcome State Fault Refusal :=
  match s.fetch with
  | none => .next s
  | some (t, s1) => exec (decode t) s1

/-- `s` with the transaction that carries an opcode-table row's bits as the host's next one (log entries 3, 4). -/
def State.withFetchWord (s : State) (nbits w : Nat) : State :=
  match tableTxn nbits w with
  | none => s
  | some t => { s with pending := t :: s.pending }

end Sys2Proof.Machine
end

