-- ==== Sys2Proof/Machine/HostSyntax.lean ====
section
/-!
DEFINITION. The host's program notation: the byte offset of each register (R21) and the expansions of R97 and
R98 into transactions.
-/
namespace Sys2Proof.Machine

/-- The byte offset of a register (R21). -/
def regOffset : Reg → BitVec 8
  | .cmd => 0x00
  | .status => 0x04
  | .srcOff => 0x08
  | .srcLen => 0x0C
  | .type => 0x10
  | .flags => 0x14
  | .length => 0x18
  | .crcStored => 0x1C
  | .crcComputed => 0x20
  | .consumed => 0x24
  | .outLen => 0x28
  | .crcState => 0x2C
  | .crcIn8 => 0x30
  | .crcIn32 => 0x34
  | .crcOut => 0x38
  | .bufSize => 0x3C

/-- `wr NAME, imm32` (R97). -/
def wr (r : Reg) (v : Word) : Txn := .regWr (regOffset r) v

/-- `rd NAME` (R97). -/
def rd (r : Reg) : Txn := .regRd (regOffset r)

/-- `ibr idx` (R97). -/
def ibr (idx : Word) : Txn := .ibufRd idx

/-- `obw idx, b` (R97). -/
def obw (idx : Word) (b : Byte) : Txn := .obufWr idx b

/-- `reset` (R97). -/
def resetLine : Txn := .reset

/-- `cmd MNEMONIC` (R98): the command word of R92 is written to CMD; a transaction has no command word. -/
def cmd (c : Instr) : List Txn := (encodeCommand c).toList.map (wr .cmd)

/-- `region off, len` (R98). -/
def region (off len : Word) : List Txn := [wr .srcOff off, wr .srcLen len]

/-- `type "ABCD"` (R98): `BE32` of the four ASCII bytes is written to TYPE. -/
def typeCode (b0 b1 b2 b3 : Byte) : List Txn := [wr .type (be32 b0 b1 b2 b3)]

/-- `ibw idx, b0 b1 …` (R98): one IBUF_WR a byte, at rising indices. DESIGN CHOICE (log entry 10): where `idx + k`
reaches 2^32, which no 32-bit `idx` field holds, the index keeps its low 32 bits. -/
def ibw : Nat → List Byte → List Txn
  | _, [] => []
  | a, b :: bs => .ibufWr (BitVec.ofNat 32 a) b :: ibw (a + 1) bs

/-- `obr idx, n` (R98): `n` OBUF_RD at rising indices. DESIGN CHOICE (log entry 10): where `idx + k` reaches 2^32, the
index keeps its low 32 bits, as in `ibw`. -/
def obr : Nat → Nat → List Txn
  | _, 0 => []
  | a, n + 1 => .obufRd (BitVec.ofNat 32 a) :: obr (a + 1) n

/-- `crc8 b` (R98). -/
def crc8 (b : Byte) : List Txn := [wr .crcIn8 (b.setWidth 32)]

/-- `crcw v` (R98). -/
def crcw (v : Word) : List Txn := [wr .crcIn32 v]

end Sys2Proof.Machine
end

