-- ==== Sys2Proof/Safety.lean ====
section
/-!
DEFINITION. What a safe run of the block is: the invariant its states keep, and the terms the statements are
written in (what a frame is, what leaves what unchanged).
-/
namespace Sys2Proof.Machine

/-! ## The invariant -/

/-- The OPCODE values R92 assigns. -/
def assignedOpcodes : List (BitVec 8) := [0x00, 0x01, 0x02, 0x10, 0x11, 0x20, 0x21]

/-- The STATUS values the block produces, by R24, R25 and the table of R241: which code stands with which DETAIL
after which command word. Codes 7 to 15 are never produced (I7). -/
def statusLegal (code : BitVec 4) (detail : BitVec 8) (op : BitVec 8) : Bool :=
  if code = 0 then detail == 0 && assignedOpcodes.contains op
  else if code = 1 then
    ([0x10, 0x11].contains op && decide (1 ≤ detail.toNat) && decide (detail.toNat ≤ 15))
      || (op == 0x11 && detail == 0x10)
  else if code = 2 then op == 0x20 && [0x01, 0x02].contains detail
  else if code = 3 then op == 0x20 && detail == 0
  else if code = 4 then op == 0x21 && detail == 0
  else if code = 5 then [0x02, 0x11, 0x20, 0x21].contains op && detail == 0
  else if code = 6 then
    (detail == 0x01 && !(assignedOpcodes.contains op)) || detail == 0x02
  else false

/-- The invariant of the block: its parameters are in R10's range; its buffers are in canonical form (the
model's own, log entry 6), inside their `BUF_BYTES` bytes (R39, R40); STATUS is a value R24, R25 and R241 allow; and
CONSUMED and OUT_LEN are zero or the size of a frame that fits a buffer (R34, R35). -/
structure Inv (s : State) : Prop where
  legal : s.config.legal
  ibufWf : Memory.wf s.ibuf
  obufWf : Memory.wf s.obuf
  ibufWithin : Memory.within s.ibuf s.config.bufBytes
  obufWithin : Memory.within s.obuf s.config.bufBytes
  status : statusLegal s.statusCode s.statusDetail s.statusOp = true
  consumed : s.consumed = 0 ∨ (12 ≤ s.consumed.toNat ∧ s.consumed.toNat ≤ s.config.bufBytes)
  outLen : s.outLen = 0 ∨ (12 ≤ s.outLen.toNat ∧ s.outLen.toNat ≤ s.config.bufBytes)

/-! ## Frames of bytes and frames of instructions -/

/-- The frame of a payload (R180): length, type code, payload, CRC over type code ++ payload. -/
def frame (t : Word) (p : List Byte) : List Byte :=
  bytesBE32 (BitVec.ofNat 32 p.length) ++ bytesBE32 t ++ p ++ bytesBE32 (crc32 (bytesBE32 t ++ p))

/-- The payload the region holds: `IBUF[SRC_OFF, SRC_OFF + SRC_LEN)` byte by byte (R28). -/
def regionBytes (s : State) : List Byte :=
  (List.range s.srcLen.toNat).map fun k => s.readByte .ibuf (s.srcOff.toNat + k)

/-! ## A host-driven CRC sum (R159) -/

/-- The bytes an instruction feeds to the CRC generator in a state: CRC_ACCUM its region (R154), CRC_IN8 one
byte (R155), CRC_IN32 four (R156), and a write to CMD what its command feeds. -/
def fedBytes : Instr → State → List Byte
  | .nop, _ => []
  | .crcInit, _ => []
  | .crcAccum, s => if s.srcOff.toNat + s.srcLen.toNat ≤ s.config.bufBytes then regionBytes s else []
  | .validate, _ => []
  | .validateStr, _ => []
  | .parse, _ => []
  | .serialize, _ => []
  | .illegal _, _ => []
  | .wrCmd _ v, s =>
    if v = 0x00000002#32 ∧ s.srcOff.toNat + s.srcLen.toNat ≤ s.config.bufBytes then regionBytes s else []
  | .wrSrcOff _ _, _ => []
  | .wrSrcLen _ _, _ => []
  | .wrType _ _, _ => []
  | .wrCrcState _ _, _ => []
  | .wrCrcIn8 _ v, _ => [v.extractLsb' 0 8]
  | .wrCrcIn32 _ v, _ => bytesBE32 v
  | .wrIgnored _ _, _ => []
  | .regRd _, _ => []
  | .ibufRd _, _ => []
  | .ibufWr _ _, _ => []
  | .obufRd _, _ => []
  | .obufWr _ _, _ => []
  | .reset, _ => []

/-- An instruction that writes CRC_STATE otherwise than by feeding bytes: CRC_INIT (R153), a write of CRC_STATE
(R157) and RESET (R270). -/
def restartsCrc : Instr → Bool
  | .nop => false
  | .crcInit => true
  | .crcAccum => false
  | .validate => false
  | .validateStr => false
  | .parse => false
  | .serialize => false
  | .illegal _ => false
  | .wrCmd _ v => v == 0x00000001#32
  | .wrSrcOff _ _ => false
  | .wrSrcLen _ _ => false
  | .wrType _ _ => false
  | .wrCrcState _ _ => true
  | .wrCrcIn8 _ _ => false
  | .wrCrcIn32 _ _ => false
  | .wrIgnored _ _ => false
  | .regRd _ => false
  | .ibufRd _ => false
  | .ibufWr _ _ => false
  | .obufRd _ => false
  | .obufWr _ _ => false
  | .reset => true

/-- The bytes a run of transactions feeds to the CRC generator, in order. -/
def fedAlong (s : State) : List Txn → List Byte
  | [] => []
  | t :: ts =>
    fedBytes (decode t) s ++
      match step { s with pending := t :: ts } with
      | .next s' => fedAlong s' ts
      | .fault _ => []
      | .refused _ => []

end Sys2Proof.Machine
end

