-- ==== Sys2Proof/Certificates/Slice0/Obligations.lean ====
section
/-!
DEFINITION. The statements for the provers. Each is about every state, so about every value of the parameters
`BUF_BYTES` and `LATENCY`, about every power-on content of the buffers, and about states no run reaches unless
a hypothesis says otherwise. `exec i s = .next { s with … }` names everything the instruction changes: every
field not named is as before, and with it every byte of a buffer not named.
-/
open Sys2Proof Sys2Proof.Machine

/-! ## Encoding -/

/-- R90, R92, R95. Every transaction decodes from its own tuple, and every command from its own word, which a
write to CMD carries; `low` and every reserved offset are kept. -/
def Obligations.DecodeOfEncodeIsTheInstruction : Prop :=
  ∀ i : Instr, WellFormed i = true →
    (i.isCommand = false → decode (encode i) = i) ∧
    (i.isCommand = true → ∃ v, encodeCommand i = some v ∧ encode i = .regWr 0x00 v ∧
      decode (.regWr 0x00 v) = .wrCmd 0 v ∧ decodeCommand v = i)

/-- R90, R92, R95. The other direction: nothing of a transaction or of a command word is lost, and what is
decoded is well-formed. -/
def Obligations.EncodeOfDecodeIsTheTransaction : Prop :=
  (∀ t : Txn, WellFormed (decode t) = true ∧ (decode t).isCommand = false ∧ encode (decode t) = t) ∧
  (∀ v : Word, WellFormed (decodeCommand v) = true ∧ (decodeCommand v).isCommand = true ∧
    encodeCommand (decodeCommand v) = some v)

/-- R94, R222. Which words are illegal, and what an illegal word does. -/
def Obligations.IllegalWordsOnlyReport : Prop :=
  (∀ v : Word, decodeCommand v = .illegal v ↔
    v.extractLsb' 8 24 ≠ 0 ∨
    (0x03 ≤ (v.extractLsb' 0 8).toNat ∧ (v.extractLsb' 0 8).toNat ≤ 0x0F) ∨
    (0x12 ≤ (v.extractLsb' 0 8).toNat ∧ (v.extractLsb' 0 8).toNat ≤ 0x1F) ∨
    0x22 ≤ (v.extractLsb' 0 8).toNat) ∧
  (∀ (v : Word) (low : BitVec 2) (s : State), decodeCommand v = .illegal v →
    exec (.illegal v) s = .next { s with
      statusCode := 6
      statusDetail := if v.extractLsb' 8 24 ≠ 0 then 0x02 else 0x01
      statusOp := v.extractLsb' 0 8 } ∧
    exec (.wrCmd low v) s = exec (.illegal v) s)

/-- R65, for both kinds of register access and every offset. -/
def Obligations.OffsetBitsOneAndZeroAreIgnored : Prop :=
  ∀ (off : BitVec 8) (v : Word) (s : State),
    exec (.regRd off) s = exec (.regRd (off &&& 0xFC#8)) s ∧
    exec (decode (.regWr off v)) s = exec (decode (.regWr (off &&& 0xFC#8) v)) s ∧
    (∃ t, exec (.regRd off) s = .next t) ∧ (∃ t, exec (decode (.regWr off v)) s = .next t)

/-- R92, R95, R97. Words and tuples written out from the spec's encodings decode to what they stand for. The last two
clauses are the model's choice, not these rules': that `decodeTableWord` reads 32 bits as a command word and 8 bits as
an offset with a zero data word is log entry 4 (DESIGN CHOICE). -/
def Obligations.SampleWordsDecode : Prop :=
  decodeCommand 0b00000000000000000000000000100000#32 = .parse ∧
  decodeCommand 0b00000000000000000000000000010001#32 = .validateStr ∧
  decodeCommand 0b00000000000000000000000000000010#32 = .crcAccum ∧
  decodeCommand 0b00000000000000000000000100100000#32 = .illegal 0x00000120 ∧
  decode (.regWr 0b00010011#8 0x52755374) = .wrType 0b11 0x52755374 ∧
  decode (.regWr 0b00110000#8 0x00000149) = .wrCrcIn8 0b00 0x00000149 ∧
  decode (.regWr 0b10000000#8 0x11111111) = .wrIgnored 0x80 0x11111111 ∧
  decode (.regWr 0b00000001#8 0x00000021) = .wrCmd 0b01 0x00000021 ∧
  decodeTableWord 32 0x10 = some .validate ∧
  decodeTableWord 8 0x2C = some (.wrCrcState 0 0)

/-! ## Steps -/

/-- R7, R8, R72. A step takes the host's oldest transaction and runs the instruction it decodes to, on the state
without that transaction and without the last result; with no transaction it changes nothing. The fields
`pending` and `response` are the model's own (log entry 3). -/
def Obligations.StepRunsTheDecodedTransaction : Prop :=
  (∀ (s : State) (t : Txn) (rest : List Txn), s.pending = t :: rest →
    step s = exec (decode t) { s with pending := rest, response := .none }) ∧
  (∀ s : State, s.pending = [] → step s = .next s)

/-- R220, R26, R245. A write to CMD: STATUS.OP is `v[7:0]` whatever the word, the command is the one the word decodes
to, by the rule's match; CMD itself stores nothing; and what STATUS was before has no effect on anything after: no
error is sticky. -/
def Obligations.CommandWriteRunsTheCommandOfItsWord : Prop :=
  ∀ (low : BitVec 2) (v : Word) (s : State),
    exec (.wrCmd low v) s = exec (decodeCommand v) s ∧
    (∃ t, exec (.wrCmd low v) s = .next t ∧ t.statusOp = v.extractLsb' 0 8 ∧ t.regRead 0x00 = 0) ∧
    exec (.wrCmd low v) s =
      (if v.extractLsb' 8 24 ≠ 0 then
        .next { s with statusCode := 6, statusDetail := 0x02, statusOp := v.extractLsb' 0 8 }
      else if v.extractLsb' 0 8 = 0x00#8 then exec .nop s
      else if v.extractLsb' 0 8 = 0x01#8 then exec .crcInit s
      else if v.extractLsb' 0 8 = 0x02#8 then exec .crcAccum s
      else if v.extractLsb' 0 8 = 0x10#8 then exec .validate s
      else if v.extractLsb' 0 8 = 0x11#8 then exec .validateStr s
      else if v.extractLsb' 0 8 = 0x20#8 then exec .parse s
      else if v.extractLsb' 0 8 = 0x21#8 then exec .serialize s
      else .next { s with statusCode := 6, statusDetail := 0x01, statusOp := v.extractLsb' 0 8 }) ∧
    ∀ (code : BitVec 4) (detail op : BitVec 8),
      exec (.wrCmd low v) { s with statusCode := code, statusDetail := detail, statusOp := op } =
        exec (.wrCmd low v) s

/-- Log entry 7 (DEDUCED from R240, R247, R249 and R280; the spec's own words in R280 are "every transaction completes,
so that a run of host transactions is never stuck inside the block"). Every instruction completes in every state, and
so does every step. That a step with nothing pending answers a next state is the model's choice (log entry 3, DESIGN
CHOICE). -/
def Obligations.EveryTransactionCompletes : Prop :=
  (∀ (i : Instr) (s : State), ∃ t, exec i s = .next t) ∧ (∀ s : State, ∃ t, step s = .next t)

/-- R72, R73. Transactions take effect in the order the host issues them: a run of `ts` and then `us` is the run
of `ts` followed by the run of `us` from the state it left. That the host's transactions wait in `pending` is the
model's own (log entry 3). -/
def Obligations.TransactionsTakeEffectInIssueOrder : Prop :=
  ∀ (s t : State) (ts us : List Txn),
    core.run ts.length { s with pending := ts } = .next t →
    t.pending = [] ∧
    core.run (ts.length + us.length) { s with pending := ts ++ us } =
      core.run us.length { t with pending := us }

/-! ## The invariant -/

/-- The STATUS, CONSUMED and OUT_LEN clauses of `Inv` are R24, R25, R241, R34 and R35 (with R180: a frame has at least
12 bytes), its index bounds R39 and R40, its range of the parameters R10. Two things in it are the model's choice, not
these rules': that the written bytes of a buffer are listed in rising order (`ibufWf`, `obufWf`: log entry 6, DESIGN
CHOICE), and that the parameters stand in the state (log entry 1, DESIGN CHOICE). -/
def Obligations.InvariantIsKeptByEveryStep : Prop :=
  ∀ s s' : State, Inv s → step s = .next s' → Inv s'

/-- R271, R43. The invariant holds at power-on with any legal parameters; `State.reset` is the case whose parameters
log entry 1 chooses. Its clauses on the order in which written bytes are listed are the model's choice too (log entry 6,
DESIGN CHOICE). -/
def Obligations.InvariantHoldsAtPowerOn : Prop :=
  (∀ (c : Config) (draw : Nat), c.legal → Inv (State.powerOn c draw)) ∧ Inv State.reset

/-! ## Reset -/

/-- R270, R43. RESET, from every state: the stored registers, what the combinational and write-only ones then read,
and the buffers, which it leaves alone. That FLAGS then reads 0x00000007 and CRC_OUT 0x00000000 is the spec's own
inference (marked derived in R30, R38 and R43). -/
def Obligations.ResetGivesTheResetValues : Prop :=
  ∀ s : State, ∃ t, exec .reset s = .next t ∧
    t = { s with
      statusCode := 0, statusDetail := 0, statusOp := 0, srcOff := 0, srcLen := 0, typeReg := 0, length := 0
      crcStored := 0, crcComputed := 0, consumed := 0, outLen := 0, crcState := 0xFFFFFFFF } ∧
    t.regRead 0x04 = 0x00000000 ∧ t.regRead 0x14 = 0x00000007 ∧ t.regRead 0x38 = 0x00000000 ∧
    t.regRead 0x3C = BitVec.ofNat 32 s.config.bufBytes ∧
    t.regRead 0x00 = 0 ∧ t.regRead 0x30 = 0 ∧ t.regRead 0x34 = 0 ∧
    (∀ (b : Buffer) (i : Nat), t.readByte b i = s.readByte b i)

/-- R271. Power-on leaves the registers as RESET does, and every buffer byte is a free value: the draw decides
it and no rule fixes it (I5; the draw is the model's own, log entry 2). -/
def Obligations.PowerOnIsResetWithUnspecifiedBuffers : Prop :=
  ∀ (c : Config) (draw : Nat),
    exec .reset (State.powerOn c draw) = .next (State.powerOn c draw) ∧
    (∀ (b : Buffer) (i : Nat), (State.powerOn c draw).readByte b i = Config.powerOnByte draw b i)

/-! ## Registers -/

/-- R223, R68. What a read of each register returns, at each of the four offsets that reach it, and that a read
changes nothing (`response` is where the model holds the result, log entry 3). -/
def Obligations.RegisterReadReturnsTheRegister : Prop :=
  ∀ (off : BitVec 8) (s : State), ∃ v : Word,
    exec (.regRd off) s = .next { s with response := .word v } ∧
    (off &&& 0xFC = regOffset .cmd → v = 0) ∧
    (off &&& 0xFC = regOffset .status → v = 0#8 ++ s.statusOp ++ s.statusDetail ++ 0#4 ++ s.statusCode) ∧
    (off &&& 0xFC = regOffset .srcOff → v = s.srcOff) ∧
    (off &&& 0xFC = regOffset .srcLen → v = s.srcLen) ∧
    (off &&& 0xFC = regOffset .type → v = s.typeReg) ∧
    (off &&& 0xFC = regOffset .flags → v = flagsOf s.typeReg) ∧
    (off &&& 0xFC = regOffset .length → v = s.length) ∧
    (off &&& 0xFC = regOffset .crcStored → v = s.crcStored) ∧
    (off &&& 0xFC = regOffset .crcComputed → v = s.crcComputed) ∧
    (off &&& 0xFC = regOffset .consumed → v = s.consumed) ∧
    (off &&& 0xFC = regOffset .outLen → v = s.outLen) ∧
    (off &&& 0xFC = regOffset .crcState → v = s.crcState) ∧
    (off &&& 0xFC = regOffset .crcIn8 → v = 0) ∧
    (off &&& 0xFC = regOffset .crcIn32 → v = 0) ∧
    (off &&& 0xFC = regOffset .crcOut → v = s.crcState ^^^ 0xFFFFFFFF) ∧
    (off &&& 0xFC = regOffset .bufSize → s.config.legal → v.toNat = s.config.bufBytes) ∧
    (0x40 ≤ off.toNat → v = 0)

/-- R224, with R155 to R157 for the CRC ports: a register write, by the register its offset selects. -/
def Obligations.RegisterWriteStoresOrIsIgnored : Prop :=
  ∀ (off : BitVec 8) (v : Word) (s : State),
    (off &&& 0xFC = 0x00 → exec (decode (.regWr off v)) s = exec (decodeCommand v) s) ∧
    (off &&& 0xFC = 0x08 → exec (decode (.regWr off v)) s = .next { s with srcOff := v }) ∧
    (off &&& 0xFC = 0x0C → exec (decode (.regWr off v)) s = .next { s with srcLen := v }) ∧
    (off &&& 0xFC = 0x10 → exec (decode (.regWr off v)) s = .next { s with typeReg := v }) ∧
    (off &&& 0xFC = 0x2C → exec (decode (.regWr off v)) s = .next { s with crcState := v }) ∧
    (off &&& 0xFC = 0x30 → exec (decode (.regWr off v)) s =
      .next { s with crcState := crcUpdate s.crcState (v.extractLsb' 0 8) }) ∧
    (off &&& 0xFC = 0x34 → exec (decode (.regWr off v)) s =
      .next { s with
        crcState := crcUpdate (crcUpdate (crcUpdate (crcUpdate s.crcState
          (v.extractLsb' 24 8)) (v.extractLsb' 16 8)) (v.extractLsb' 8 8)) (v.extractLsb' 0 8) }) ∧
    (off &&& 0xFC ∈ [0x04#8, 0x14, 0x18, 0x1C, 0x20, 0x24, 0x28, 0x38, 0x3C] ∨ 0x40 ≤ off.toNat →
      exec (decode (.regWr off v)) s = .next s)

/-- R27, R28, R29, R224. The plain stores, for every value: nothing but the register changes. WR_IGNORED changes
nothing: at the offsets R224 says ignore a write that is the rule, and at every other offset, where the term is
ill-formed and no transaction decodes to it, it is the model's choice (log entry 8, DESIGN CHOICE). -/
def Obligations.PlainRegisterWritesStoreTheValue : Prop :=
  ∀ (low : BitVec 2) (off : BitVec 8) (v : Word) (s : State),
    exec (.wrSrcOff low v) s = .next { s with srcOff := v } ∧
    exec (.wrSrcLen low v) s = .next { s with srcLen := v } ∧
    exec (.wrType low v) s = .next { s with typeReg := v } ∧
    exec (.wrIgnored off v) s = .next s

/-- R27 (SRC_OFF), R28 (SRC_LEN), R29 and R126 (TYPE), R36 and R157 (CRC_STATE), R158 (CRC_OUT): two transactions,
a write and a read of the register, in the model's own `pending` and `response` (log entry 3). -/
def Obligations.WrittenRegisterReadsBack : Prop :=
  ∀ (v : Word) (s : State),
    (∃ t, core.run 2 { s with pending := [wr .srcOff v, rd .srcOff] } = .next t ∧ t.response = .word v) ∧
    (∃ t, core.run 2 { s with pending := [wr .srcLen v, rd .srcLen] } = .next t ∧ t.response = .word v) ∧
    (∃ t, core.run 2 { s with pending := [wr .type v, rd .type] } = .next t ∧ t.response = .word v) ∧
    (∃ t, core.run 2 { s with pending := [wr .crcState v, rd .crcState] } = .next t ∧ t.response = .word v) ∧
    (∃ t, core.run 2 { s with pending := [wr .crcState v, rd .crcOut] } = .next t ∧
      t.response = .word (v ^^^ 0xFFFFFFFF))

/-- R23, R27 to R29, R31 to R36: which transaction or command may change each register. The register is as
before after every other instruction; CONSUMED is PARSE's alone, OUT_LEN is SERIALIZE's alone, and STATUS changes
only by a write to CMD (or RESET). -/
def Obligations.EachRegisterHasItsWriters : Prop :=
  ∀ (i : Instr) (s s' : State), exec i s = .next s' → i ≠ .reset →
    (s'.srcOff ≠ s.srcOff → ∃ low v, i = .wrSrcOff low v) ∧
    (s'.srcLen ≠ s.srcLen → ∃ low v, i = .wrSrcLen low v) ∧
    ((s'.statusCode, s'.statusDetail, s'.statusOp) ≠ (s.statusCode, s.statusDetail, s.statusOp) →
      i.isCommand = true ∨ ∃ low v, i = .wrCmd low v) ∧
    (s'.typeReg ≠ s.typeReg → (∃ low v, i = .wrType low v) ∨
      i = .parse ∨ i = .validateStr ∨ ∃ low v, i = Instr.wrCmd low v ∧ decodeCommand v ∈ [Instr.parse, Instr.validateStr]) ∧
    ((s'.length, s'.crcStored, s'.crcComputed) ≠ (s.length, s.crcStored, s.crcComputed) →
      i = .parse ∨ i = .serialize ∨ ∃ low v, i = Instr.wrCmd low v ∧ decodeCommand v ∈ [Instr.parse, Instr.serialize]) ∧
    (s'.consumed ≠ s.consumed → i = .parse ∨ ∃ low v, i = Instr.wrCmd low v ∧ decodeCommand v = .parse) ∧
    (s'.outLen ≠ s.outLen → i = .serialize ∨ ∃ low v, i = Instr.wrCmd low v ∧ decodeCommand v = .serialize) ∧
    (s'.crcState ≠ s.crcState → (∃ low v, i = .wrCrcState low v) ∨ (∃ low v, i = .wrCrcIn8 low v) ∨
      (∃ low v, i = .wrCrcIn32 low v) ∨ i = .crcInit ∨ i = .crcAccum ∨
      ∃ low v, i = Instr.wrCmd low v ∧ decodeCommand v ∈ [Instr.crcInit, Instr.crcAccum])

/-! ## Buffers -/

/-- R225. IBUF through the host's port, at every index, in range or not (`response` is where the model holds the
result, log entry 3). -/
def Obligations.IbufPortReadsAndWritesOneByte : Prop :=
  ∀ (idx : Word) (b : Byte) (s : State),
    exec (.ibufRd idx) s = .next { s with
      response := .byte (if idx.toNat < s.config.bufBytes then s.readByte .ibuf idx.toNat else 0x00) } ∧
    (idx.toNat < s.config.bufBytes → ∃ t, exec (.ibufWr idx b) s = .next t ∧ t = { s with ibuf := t.ibuf } ∧
      t.readByte .ibuf idx.toNat = b ∧ ∀ j, j ≠ idx.toNat → t.readByte .ibuf j = s.readByte .ibuf j) ∧
    (s.config.bufBytes ≤ idx.toNat → exec (.ibufWr idx b) s = .next s)

/-- R226. OBUF through the host's port, at every index, in range or not (`response` is where the model holds the
result, log entry 3). -/
def Obligations.ObufPortReadsAndWritesOneByte : Prop :=
  ∀ (idx : Word) (b : Byte) (s : State),
    exec (.obufRd idx) s = .next { s with
      response := .byte (if idx.toNat < s.config.bufBytes then s.readByte .obuf idx.toNat else 0x00) } ∧
    (idx.toNat < s.config.bufBytes → ∃ t, exec (.obufWr idx b) s = .next t ∧ t = { s with obuf := t.obuf } ∧
      t.readByte .obuf idx.toNat = b ∧ ∀ j, j ≠ idx.toNat → t.readByte .obuf j = s.readByte .obuf j) ∧
    (s.config.bufBytes ≤ idx.toNat → exec (.obufWr idx b) s = .next s)

/-- R79, R39, R40. Who changes a byte of a buffer: an IBUF byte only an IBUF_WR of that index, an OBUF byte only an
OBUF_WR of that index or a SERIALIZE that ends with OK and whose frame covers the index. -/
def Obligations.BufferBytesHaveTheirWriters : Prop :=
  ∀ (i : Instr) (s s' : State) (j : Nat), exec i s = .next s' →
    (s'.readByte .ibuf j ≠ s.readByte .ibuf j → ∃ idx b, i = .ibufWr idx b ∧ j = idx.toNat ∧
      idx.toNat < s.config.bufBytes) ∧
    (s'.readByte .obuf j ≠ s.readByte .obuf j →
      (∃ idx b, i = .obufWr idx b ∧ j = idx.toNat ∧ idx.toNat < s.config.bufBytes) ∨
      ((i = .serialize ∨ ∃ low v, i = Instr.wrCmd low v ∧ decodeCommand v = .serialize) ∧
        s'.statusCode = 0 ∧ j < 12 + s.srcLen.toNat))

/-! ## The type-code validator -/

/-- R120, R121, R30. A read of FLAGS, bit by bit, as a function of TYPE. -/
def Obligations.FlagsAreTheFunctionOfType : Prop :=
  (∀ b : Byte, letter b = true ↔
    (0x41 ≤ b.toNat ∧ b.toNat ≤ 0x5A) ∨ (0x61 ≤ b.toNat ∧ b.toNat ≤ 0x7A)) ∧
  ∀ s : State,
    (s.regRead 0x14).getLsbD 0 = !s.typeReg.getLsbD 29 ∧
    (s.regRead 0x14).getLsbD 1 = !s.typeReg.getLsbD 21 ∧
    (s.regRead 0x14).getLsbD 2 = !s.typeReg.getLsbD 13 ∧
    (s.regRead 0x14).getLsbD 3 = s.typeReg.getLsbD 5 ∧
    (s.regRead 0x14).getLsbD 8 = letter (s.typeReg.extractLsb' 24 8) ∧
    (s.regRead 0x14).getLsbD 9 = letter (s.typeReg.extractLsb' 16 8) ∧
    (s.regRead 0x14).getLsbD 10 = letter (s.typeReg.extractLsb' 8 8) ∧
    (s.regRead 0x14).getLsbD 11 = letter (s.typeReg.extractLsb' 0 8) ∧
    (s.regRead 0x14).getLsbD 4 = ((s.regRead 0x14).getLsbD 8 && (s.regRead 0x14).getLsbD 9 &&
      (s.regRead 0x14).getLsbD 10 && (s.regRead 0x14).getLsbD 11) ∧
    (s.regRead 0x14).getLsbD 5 = ((s.regRead 0x14).getLsbD 2 && (s.regRead 0x14).getLsbD 4) ∧
    ∀ k, k = 6 ∨ k = 7 ∨ 12 ≤ k → (s.regRead 0x14).getLsbD k = false

/-- R123. VALIDATE: the mask of the bytes of TYPE that are not letter bytes, and nothing but STATUS changes. -/
def Obligations.ValidateChecksTheFourBytesOfType : Prop :=
  decodeCommand 0x00000010 = .validate ∧
  ∀ s : State, ∃ m : Byte,
    (∀ k, k < 4 → m.getLsbD k = !letter (s.typeReg.extractLsb' (24 - 8 * k) 8)) ∧
    (∀ k, 4 ≤ k → m.getLsbD k = false) ∧
    exec .validate s = .next { s with
      statusCode := if m = 0 then 0 else 1
      statusDetail := m
      statusOp := 0x10 }

/-- R124. VALIDATE_STR, whole, in the order of R243: region, length, then TYPE is loaded, then the range check. -/
def Obligations.ValidateStrLoadsAndChecksTheRegion : Prop :=
  decodeCommand 0x00000011 = .validateStr ∧
  ∀ s : State,
    (s.config.bufBytes < s.srcOff.toNat + s.srcLen.toNat →
      exec .validateStr s = .next { s with statusCode := 5, statusDetail := 0, statusOp := 0x11 }) ∧
    (s.srcOff.toNat + s.srcLen.toNat ≤ s.config.bufBytes → s.srcLen.toNat ≠ 4 →
      exec .validateStr s = .next { s with statusCode := 1, statusDetail := 0x10, statusOp := 0x11 }) ∧
    (s.srcOff.toNat + s.srcLen.toNat ≤ s.config.bufBytes → s.srcLen.toNat = 4 → ∃ (t : Word) (m : Byte),
      (∀ k, k < 4 → t.extractLsb' (24 - 8 * k) 8 = s.readByte .ibuf (s.srcOff.toNat + k)) ∧
      (∀ k, k < 4 → m.getLsbD k = !letter (s.readByte .ibuf (s.srcOff.toNat + k))) ∧
      (∀ k, 4 ≤ k → m.getLsbD k = false) ∧
      exec .validateStr s = .next { s with
        typeReg := t
        statusCode := if m = 0 then 0 else 1
        statusDetail := m
        statusOp := 0x11 })

/-- R122. VALIDATE reports construction, FLAGS.VALID the reserved bit as well: OK is RANGE_OK, and VALID is OK
together with RESERVED_VALID. A code such as `Rust` passes VALIDATE with VALID = 0. -/
def Obligations.ValidIsNotTheVerdictOfValidate : Prop :=
  (∀ s t : State, exec .validate s = .next t →
    (t.statusCode = 0 ↔ (t.regRead 0x14).getLsbD 4 = true) ∧
    ((t.regRead 0x14).getLsbD 5 = true ↔ t.statusCode = 0 ∧ t.typeReg.getLsbD 13 = false)) ∧
  (∀ s : State, s.typeReg = 0x52757374 → ∃ t, exec .validate s = .next t ∧ t.statusCode = 0 ∧
    (t.regRead 0x14).getLsbD 5 = false)

/-! ## The CRC generator -/

/-- R150, R151. The function, as the rule's loop, its bit-reversed polynomial, and the check value. The parameters
and the check value are general knowledge, as the spec marks them (G1; log entry 5, PRESUMED). -/
def Obligations.CrcIsTheIsoHdlcFunction : Prop :=
  (∀ (c : Word) (b : Byte), crcUpdate c b =
    (fun c : Word => if c.getLsbD 0 = true then (c >>> 1) ^^^ 0xEDB88320 else c >>> 1)^[8]
      (c ^^^ b.setWidth 32)) ∧
  (∀ s : List Byte, crc32 s = s.foldl crcUpdate 0xFFFFFFFF ^^^ 0xFFFFFFFF) ∧
  BitVec.reverse 0x04C11DB7#32 = 0xEDB88320 ∧
  crc32 [0x31, 0x32, 0x33, 0x34, 0x35, 0x36, 0x37, 0x38, 0x39] = 0xCBF43926

/-- R152. The table method computes the same function, with the entries the rule lists (which the spec marks as its
own inference from R150). -/
def Obligations.TableMethodComputesCrcUpdate : Prop :=
  (∀ (c : Word) (b : Byte),
    crcUpdate c b = (c >>> 8) ^^^ crcUpdate ((c ^^^ b.setWidth 32) &&& 0xFF) 0) ∧
  crcUpdate 0 0 = 0x00000000 ∧ crcUpdate 1 0 = 0x77073096 ∧ crcUpdate 2 0 = 0xEE0E612C ∧
  crcUpdate 128 0 = 0xEDB88320 ∧ crcUpdate 255 0 = 0x2D02EF8D

/-- R153. -/
def Obligations.CrcInitStartsANewSum : Prop :=
  decodeCommand 0x00000001 = .crcInit ∧
  ∀ s : State, ∃ t, exec .crcInit s = .next t ∧
    t = { s with crcState := 0xFFFFFFFF, statusCode := 0, statusDetail := 0, statusOp := 0x01 } ∧
    t.regRead 0x38 = 0x00000000

/-- R154. CRC_ACCUM feeds the bytes of the region, in order, to the present CRC_STATE. -/
def Obligations.CrcAccumFeedsTheRegion : Prop :=
  decodeCommand 0x00000002 = .crcAccum ∧
  ∀ s : State,
    (s.config.bufBytes < s.srcOff.toNat + s.srcLen.toNat →
      exec .crcAccum s = .next { s with statusCode := 5, statusDetail := 0, statusOp := 0x02 }) ∧
    (s.srcOff.toNat + s.srcLen.toNat ≤ s.config.bufBytes →
      exec .crcAccum s = .next { s with
        crcState := (regionBytes s).foldl crcUpdate s.crcState
        statusCode := 0
        statusDetail := 0
        statusOp := 0x02 })

/-- R155, R156, R157. The three CRC ports: CRC_STATE alone changes. -/
def Obligations.CrcPortsAdvanceCrcState : Prop :=
  ∀ (low : BitVec 2) (v : Word) (s : State),
    exec (.wrCrcIn8 low v) s = .next { s with crcState := crcUpdate s.crcState (v.extractLsb' 0 8) } ∧
    exec (.wrCrcIn32 low v) s = .next { s with
      crcState := crcUpdate (crcUpdate (crcUpdate (crcUpdate s.crcState
        (v.extractLsb' 24 8)) (v.extractLsb' 16 8)) (v.extractLsb' 8 8)) (v.extractLsb' 0 8) } ∧
    exec (.wrCrcState low v) s = .next { s with crcState := v }

/-- R159 (which the spec marks as its own inference from R151 and R153 to R158), over runs of the model's `pending`
(log entry 3). After a CRC_INIT, whatever transactions follow that do not restart the sum, CRC_OUT is CRC32 of the bytes
they fed, in order; in particular the CRC of a chunk, from CRC_INIT, its TYPE and its payload. PARSE and
SERIALIZE may stand among them (R277). -/
def Obligations.StreamedSumIsTheCrcOfTheBytesFed : Prop :=
  (∀ (s s1 s' : State) (ts : List Txn), exec .crcInit s = .next s1 →
    (∀ t ∈ ts, restartsCrc (decode t) = false) →
    core.run ts.length { s1 with pending := ts } = .next s' →
    s'.regRead 0x38 = crc32 (fedAlong s1 ts)) ∧
  (∀ (s s' : State) (t off len : Word), off.toNat + len.toNat ≤ s.config.bufBytes →
    core.run 5 { s with pending := cmd .crcInit ++ crcw t ++ region off len ++ cmd .crcAccum } = .next s' →
    s'.regRead 0x38 = crc32 (bytesBE32 t ++
      (List.range len.toNat).map fun k => s.readByte .ibuf (off.toNat + k)))

/-- R160 (which the spec marks as general knowledge, not in its source). Flipping one bit of a byte sequence changes
its CRC32. -/
def Obligations.OneFlippedBitChangesTheCrc : Prop :=
  ∀ (xs : List Byte) (j k : Nat) (h : j < xs.length), k < 8 →
    crc32 (xs.set j (xs[j] ^^^ (1#8 <<< k))) ≠ crc32 xs

/-! ## The frame parser -/

/-- R181, R184, R185. PARSE, whole: the five outcomes, in the order of their checks, from the bytes of the
region. -/
def Obligations.ParseDecodesTheFrameOfTheRegion : Prop :=
  decodeCommand 0x00000020 = .parse ∧
  ∀ s : State,
    let byte := fun k => s.readByte .ibuf (s.srcOff.toNat + k)
    let n := s.srcLen.toNat
    let lenWord := be32 (byte 0) (byte 1) (byte 2) (byte 3)
    let len := lenWord.toNat
    let stored := be32 (byte (8 + len)) (byte (9 + len)) (byte (10 + len)) (byte (11 + len))
    let computed := crc32 ((List.range (4 + len)).map fun k => byte (4 + k))
    let regs : State := { s with
      length := lenWord
      typeReg := be32 (byte 4) (byte 5) (byte 6) (byte 7)
      crcStored := stored
      crcComputed := computed }
    (s.config.bufBytes < s.srcOff.toNat + n →
      exec .parse s = .next { s with consumed := 0, statusCode := 5, statusDetail := 0, statusOp := 0x20 }) ∧
    (s.srcOff.toNat + n ≤ s.config.bufBytes → n < 12 →
      exec .parse s = .next { s with consumed := 0, statusCode := 2, statusDetail := 1, statusOp := 0x20 }) ∧
    (s.srcOff.toNat + n ≤ s.config.bufBytes → 12 ≤ n → n < 12 + len →
      exec .parse s = .next { s with consumed := 0, statusCode := 2, statusDetail := 2, statusOp := 0x20 }) ∧
    (s.srcOff.toNat + n ≤ s.config.bufBytes → 12 + len ≤ n → stored ≠ computed →
      exec .parse s = .next { regs with consumed := 0, statusCode := 3, statusDetail := 0, statusOp := 0x20 }) ∧
    (s.srcOff.toNat + n ≤ s.config.bufBytes → 12 + len ≤ n → stored = computed →
      exec .parse s = .next { regs with
        consumed := BitVec.ofNat 32 (12 + len), statusCode := 0, statusDetail := 0, statusOp := 0x20 })

/-- R182, R186, R187. PARSE accepts every frame at the start of the region, whatever its type code, however long
the region is, and gives its parts. -/
def Obligations.ParseAcceptsEveryFrame : Prop :=
  ∀ (s : State) (t : Word) (p : List Byte),
    s.srcOff.toNat + s.srcLen.toNat ≤ s.config.bufBytes → 12 + p.length ≤ s.srcLen.toNat →
    (∀ k, k < 12 + p.length → (frame t p)[k]? = some (s.readByte .ibuf (s.srcOff.toNat + k))) →
    exec .parse s = .next { s with
      length := BitVec.ofNat 32 p.length
      typeReg := t
      crcStored := crc32 (bytesBE32 t ++ p)
      crcComputed := crc32 (bytesBE32 t ++ p)
      consumed := BitVec.ofNat 32 (12 + p.length)
      statusCode := 0
      statusDetail := 0
      statusOp := 0x20 } ∧
    ∀ k, k < p.length → p[k]? = some (s.readByte .ibuf (s.srcOff.toNat + 8 + k))

/-- R34, and the last sentence of R196 (the spec's own inference from R181). A PARSE that ends with OK consumes at least 12 bytes and no more than the region, so the host's
loop of R196 ends; one that fails consumes none. -/
def Obligations.ParseConsumesTheFrameOrNothing : Prop :=
  ∀ s t : State, exec .parse s = .next t →
    (t.statusCode = 0 → t.consumed.toNat = 12 + t.length.toNat ∧ t.consumed.toNat ≤ s.srcLen.toNat) ∧
    (t.statusCode ≠ 0 → t.consumed = 0)

/-- R195 (the spec's own inference from R181 and R160). Take a frame PARSE accepts and flip one bit of its type code, payload or CRC field: PARSE of
the changed frame reports CRC_MISMATCH. -/
def Obligations.ParseReportsEveryFlippedBit : Prop :=
  ∀ (s s' t : State) (j k : Nat), exec .parse s = .next t → t.statusCode = 0 →
    s' = { s with ibuf := s'.ibuf } →
    s.srcOff.toNat + 4 ≤ j → j < s.srcOff.toNat + 12 + t.length.toNat → k < 8 →
    s'.readByte .ibuf j = s.readByte .ibuf j ^^^ (1#8 <<< k) →
    (∀ i, i ≠ j → s'.readByte .ibuf i = s.readByte .ibuf i) →
    ∃ t', exec .parse s' = .next t' ∧ t'.statusCode = 3 ∧ t'.consumed = 0

/-! ## The frame serializer -/

/-- R189, R191. SERIALIZE, whole: the two failures in the order of their checks, and the frame it builds, with the
OBUF bytes above the frame as they were. -/
def Obligations.SerializeBuildsTheFrame : Prop :=
  decodeCommand 0x00000021 = .serialize ∧
  ∀ s : State,
    (s.config.bufBytes < s.srcOff.toNat + s.srcLen.toNat →
      exec .serialize s = .next { s with outLen := 0, statusCode := 5, statusDetail := 0, statusOp := 0x21 }) ∧
    (s.srcOff.toNat + s.srcLen.toNat ≤ s.config.bufBytes → s.config.bufBytes < 12 + s.srcLen.toNat →
      exec .serialize s = .next { s with outLen := 0, statusCode := 4, statusDetail := 0, statusOp := 0x21 }) ∧
    (s.srcOff.toNat + s.srcLen.toNat ≤ s.config.bufBytes → 12 + s.srcLen.toNat ≤ s.config.bufBytes →
      ∃ t, exec .serialize s = .next t ∧
        t = { s with
          obuf := t.obuf
          length := s.srcLen
          crcStored := crc32 (bytesBE32 s.typeReg ++ regionBytes s)
          crcComputed := crc32 (bytesBE32 s.typeReg ++ regionBytes s)
          outLen := BitVec.ofNat 32 (12 + s.srcLen.toNat)
          statusCode := 0
          statusDetail := 0
          statusOp := 0x21 } ∧
        (∀ k, k < 12 + s.srcLen.toNat →
          (frame s.typeReg (regionBytes s))[k]? = some (t.readByte .obuf k)) ∧
        (∀ k, 12 + s.srcLen.toNat ≤ k → t.readByte .obuf k = s.readByte .obuf k) ∧
        (∀ k, t.readByte .ibuf k = s.readByte .ibuf k))

/-- R193 (the spec's own inference from R181 and R189). LENGTH is the payload's size after both frame commands, and what SERIALIZE writes into the frame. -/
def Obligations.LengthIsThePayloadSize : Prop :=
  (∀ s t : State, exec .serialize s = .next t → t.statusCode = 0 →
    t.length = s.srcLen ∧ t.readBE32 .obuf 0 = s.srcLen ∧
    (s.config.legal → t.outLen.toNat = 12 + t.length.toNat)) ∧
  (∀ s t : State, exec .parse s = .next t → t.statusCode = 0 →
    t.length = s.readBE32 .ibuf s.srcOff.toNat ∧
    t.crcStored = s.readBE32 .ibuf (s.srcOff.toNat + 8 + t.length.toNat))

/-- R194 (the spec's own inference from R181 and R189). The chunk round trip: copy the frame SERIALIZE left in OBUF to IBUF at any index `a` where it fits and
PARSE it; the chunk comes back whole. -/
def Obligations.ParseOfSerializeIsTheChunk : Prop :=
  ∀ (s s1 s2 : State) (a : Nat), s.config.legal →
    exec .serialize s = .next s1 → s1.statusCode = 0 → a + s1.outLen.toNat ≤ s.config.bufBytes →
    s2 = { s1 with srcOff := BitVec.ofNat 32 a, srcLen := s1.outLen, ibuf := s2.ibuf } →
    (∀ k, k < s1.outLen.toNat → s2.readByte .ibuf (a + k) = s1.readByte .obuf k) →
    ∃ s3, exec .parse s2 = .next s3 ∧ s3.statusCode = 0 ∧ s3.statusDetail = 0 ∧
      s3.length = s1.length ∧ s3.typeReg = s1.typeReg ∧ s3.typeReg = s.typeReg ∧
      s3.crcStored = s1.crcStored ∧ s3.crcComputed = s1.crcComputed ∧ s3.consumed = s1.outLen ∧
      ∀ k, k < s.srcLen.toNat → s3.readByte .ibuf (a + 8 + k) = s.readByte .ibuf (s.srcOff.toNat + k)

/-- R197 (the spec's own inference from R180, R181 and R189). SERIALIZE of what PARSE decoded is the frame PARSE read, byte for byte. -/
def Obligations.SerializeOfParseIsTheFrame : Prop :=
  ∀ (s t u : State), s.config.legal → exec .parse s = .next t → t.statusCode = 0 →
    u = { t with srcOff := BitVec.ofNat 32 (s.srcOff.toNat + 8), srcLen := t.length } →
    ∃ v, exec .serialize u = .next v ∧ v.statusCode = 0 ∧ v.statusDetail = 0 ∧ v.outLen = t.consumed ∧
      ∀ k, k < t.consumed.toNat → v.readByte .obuf k = s.readByte .ibuf (s.srcOff.toNat + k)

/-! ## Control and whole-machine rules -/

/-- R221. -/
def Obligations.NopClearsStatus : Prop :=
  decodeCommand 0x00000000 = .nop ∧
  ∀ s : State, exec .nop s = .next { s with statusCode := 0, statusDetail := 0, statusOp := 0x00 }

/-- R93 (what a command may write), R36, R277: the frame of each command. It changes the fields R93 lists, no
other field, no byte of IBUF, and no byte of OBUF but those SERIALIZE stores when it ends with OK. -/
def Obligations.CommandsWriteOnlyTheirOperands : Prop :=
  ∀ (i : Instr) (s t : State), exec i s = .next t →
    (i = .nop ∨ i = .validate ∨ (∃ v, i = .illegal v) →
      t = { s with
        statusCode := t.statusCode, statusDetail := t.statusDetail, statusOp := t.statusOp }) ∧
    (i = .crcInit ∨ i = .crcAccum →
      t = { s with
        crcState := t.crcState
        statusCode := t.statusCode, statusDetail := t.statusDetail, statusOp := t.statusOp }) ∧
    (i = .validateStr →
      t = { s with
        typeReg := t.typeReg
        statusCode := t.statusCode, statusDetail := t.statusDetail, statusOp := t.statusOp }) ∧
    (i = .parse →
      t = { s with
        length := t.length, typeReg := t.typeReg, crcStored := t.crcStored, crcComputed := t.crcComputed
        consumed := t.consumed
        statusCode := t.statusCode, statusDetail := t.statusDetail, statusOp := t.statusOp }) ∧
    (i = .serialize →
      t = { s with
        obuf := t.obuf
        length := t.length, crcStored := t.crcStored, crcComputed := t.crcComputed, outLen := t.outLen
        statusCode := t.statusCode, statusDetail := t.statusDetail, statusOp := t.statusOp } ∧
      ∀ j, t.statusCode ≠ 0 ∨ 12 + s.srcLen.toNat ≤ j → t.readByte .obuf j = s.readByte .obuf j) ∧
    (i.isCommand = true → ∀ j, t.readByte .ibuf j = s.readByte .ibuf j) ∧
    (i.isCommand = true → i ≠ .serialize → ∀ j, t.readByte .obuf j = s.readByte .obuf j)

/-- R78, R77. What a command depends on: two states that differ in nothing but IBUF bytes outside the region (and
in the draw behind unwritten bytes, log entry 2) leave every command with the same results, OBUF included. -/
def Obligations.CommandsReadIbufOnlyInTheirRegion : Prop :=
  ∀ (i : Instr) (s s' t : State), i.isCommand = true →
    s' = { s with ibuf := s'.ibuf, powerOnDraw := s'.powerOnDraw } →
    (s.srcOff.toNat + s.srcLen.toNat ≤ s.config.bufBytes → ∀ k, k < s.srcLen.toNat →
      s'.readByte .ibuf (s.srcOff.toNat + k) = s.readByte .ibuf (s.srcOff.toNat + k)) →
    exec i s = .next t →
    exec i s' = .next { t with ibuf := s'.ibuf, powerOnDraw := s'.powerOnDraw }

/-- R78, R183. PARSE reads the four length bytes only when the region has 12 bytes, and further, up to
`SRC_OFF + 12 + length`, only when the declared frame fits the region. -/
def Obligations.ParseReadsNoFurtherThanTheFrame : Prop :=
  ∀ s s' t : State,
    s' = { s with ibuf := s'.ibuf, powerOnDraw := s'.powerOnDraw } →
    (s.srcOff.toNat + s.srcLen.toNat ≤ s.config.bufBytes → 12 ≤ s.srcLen.toNat → ∀ k, k < 4 →
      s'.readByte .ibuf (s.srcOff.toNat + k) = s.readByte .ibuf (s.srcOff.toNat + k)) →
    (s.srcOff.toNat + s.srcLen.toNat ≤ s.config.bufBytes →
      12 + (s.readBE32 .ibuf s.srcOff.toNat).toNat ≤ s.srcLen.toNat →
      ∀ k, k < 12 + (s.readBE32 .ibuf s.srcOff.toNat).toNat →
      s'.readByte .ibuf (s.srcOff.toNat + k) = s.readByte .ibuf (s.srcOff.toNat + k)) →
    exec .parse s = .next t →
    exec .parse s' = .next { t with ibuf := s'.ibuf, powerOnDraw := s'.powerOnDraw }

/-- R280, R10. No step depends on `LATENCY`: with another value everything else is the same. That the parameters stand
in the state is the model's choice (log entry 1, DESIGN CHOICE). -/
def Obligations.LatencyIsNeverRead : Prop :=
  ∀ (s t : State) (n : Nat), step s = .next t →
    step { s with config := { s.config with latency := n } } =
      .next { t with config := { t.config with latency := n } }

/-- A statement about three fields that are the model's own (log entries 1, 2 and 3, each a DESIGN CHOICE). No step
changes the parameters, which R10 and R13 say are no state of the block, or the number of the draw of the bytes R271
leaves unspecified. No instruction, RESET included, changes the host's other transactions in `pending`: the model's
choice (log entry 3), which follows the issue order of R72. -/
def Obligations.ParametersAndDrawNeverChange : Prop :=
  (∀ s t : State, step s = .next t → t.config = s.config ∧ t.powerOnDraw = s.powerOnDraw) ∧
  (∀ (i : Instr) (s t : State), exec i s = .next t → t.pending = s.pending)

/-! ## The CRC sum, step by step -/

/-- R159, one step at a time (the spec's own inference from R151 and R153 to R158; `pending` is the model's own, log
entry 3). Where CRC_STATE is the sum of the bytes `fed` so far, a step leaves it: the sum of `fed` and the bytes its
transaction feeds; or the sum of nothing after CRC_INIT (R153) or RESET (R270, R43); or the value written by a write of
CRC_STATE (R157), the only other transaction `restartsCrc` names; or the sum of `fed` where nothing is pending. -/
def Obligations.CrcStateStaysTheSumOfTheBytesFed : Prop :=
  ∀ (s s' : State) (fed : List Byte), s.crcState = crcFeed 0xFFFFFFFF fed → step s = .next s' →
    (∀ (t : Txn) (rest : List Txn), s.pending = t :: rest →
      (restartsCrc (decode t) = false → s'.crcState = crcFeed 0xFFFFFFFF (fed ++ fedBytes (decode t) s)) ∧
      (decode t = .reset ∨ (∃ low, decode t = .wrCmd low 0x00000001) → s'.crcState = crcFeed 0xFFFFFFFF []) ∧
      (∀ (low : BitVec 2) (v : Word), decode t = .wrCrcState low v → s'.crcState = v)) ∧
    (s.pending = [] → s'.crcState = crcFeed 0xFFFFFFFF fed)
end

