-- ==== Sys2Proof/Laws/State.lean ====
section
/-!
SUPPORT. One lemma per field of State per named update, true by `rfl`, so that no later proof unfolds a record
update.
-/
namespace Sys2Proof.Machine

/-! ## setOp -/

@[simp] theorem State.setOp_statusCode (s : State) (op : BitVec 8) : (s.setOp op).statusCode = s.statusCode := rfl
@[simp] theorem State.setOp_statusDetail (s : State) (op : BitVec 8) : (s.setOp op).statusDetail = s.statusDetail := rfl
@[simp] theorem State.setOp_statusOp (s : State) (op : BitVec 8) : (s.setOp op).statusOp = op := rfl
@[simp] theorem State.setOp_srcOff (s : State) (op : BitVec 8) : (s.setOp op).srcOff = s.srcOff := rfl
@[simp] theorem State.setOp_srcLen (s : State) (op : BitVec 8) : (s.setOp op).srcLen = s.srcLen := rfl
@[simp] theorem State.setOp_typeReg (s : State) (op : BitVec 8) : (s.setOp op).typeReg = s.typeReg := rfl
@[simp] theorem State.setOp_length (s : State) (op : BitVec 8) : (s.setOp op).length = s.length := rfl
@[simp] theorem State.setOp_crcStored (s : State) (op : BitVec 8) : (s.setOp op).crcStored = s.crcStored := rfl
@[simp] theorem State.setOp_crcComputed (s : State) (op : BitVec 8) : (s.setOp op).crcComputed = s.crcComputed := rfl
@[simp] theorem State.setOp_consumed (s : State) (op : BitVec 8) : (s.setOp op).consumed = s.consumed := rfl
@[simp] theorem State.setOp_outLen (s : State) (op : BitVec 8) : (s.setOp op).outLen = s.outLen := rfl
@[simp] theorem State.setOp_crcState (s : State) (op : BitVec 8) : (s.setOp op).crcState = s.crcState := rfl
@[simp] theorem State.setOp_ibuf (s : State) (op : BitVec 8) : (s.setOp op).ibuf = s.ibuf := rfl
@[simp] theorem State.setOp_obuf (s : State) (op : BitVec 8) : (s.setOp op).obuf = s.obuf := rfl
@[simp] theorem State.setOp_config (s : State) (op : BitVec 8) : (s.setOp op).config = s.config := rfl
@[simp] theorem State.setOp_powerOnDraw (s : State) (op : BitVec 8) : (s.setOp op).powerOnDraw = s.powerOnDraw := rfl
@[simp] theorem State.setOp_pending (s : State) (op : BitVec 8) : (s.setOp op).pending = s.pending := rfl
@[simp] theorem State.setOp_response (s : State) (op : BitVec 8) : (s.setOp op).response = s.response := rfl

/-! ## raise -/

@[simp] theorem State.raise_statusCode (s : State) (code : Code) (detail : Byte) : (s.raise code detail).statusCode = code.bits := rfl
@[simp] theorem State.raise_statusDetail (s : State) (code : Code) (detail : Byte) : (s.raise code detail).statusDetail = detail := rfl
@[simp] theorem State.raise_statusOp (s : State) (code : Code) (detail : Byte) : (s.raise code detail).statusOp = s.statusOp := rfl
@[simp] theorem State.raise_srcOff (s : State) (code : Code) (detail : Byte) : (s.raise code detail).srcOff = s.srcOff := rfl
@[simp] theorem State.raise_srcLen (s : State) (code : Code) (detail : Byte) : (s.raise code detail).srcLen = s.srcLen := rfl
@[simp] theorem State.raise_typeReg (s : State) (code : Code) (detail : Byte) : (s.raise code detail).typeReg = s.typeReg := rfl
@[simp] theorem State.raise_length (s : State) (code : Code) (detail : Byte) : (s.raise code detail).length = s.length := rfl
@[simp] theorem State.raise_crcStored (s : State) (code : Code) (detail : Byte) : (s.raise code detail).crcStored = s.crcStored := rfl
@[simp] theorem State.raise_crcComputed (s : State) (code : Code) (detail : Byte) : (s.raise code detail).crcComputed = s.crcComputed := rfl
@[simp] theorem State.raise_consumed (s : State) (code : Code) (detail : Byte) : (s.raise code detail).consumed = s.consumed := rfl
@[simp] theorem State.raise_outLen (s : State) (code : Code) (detail : Byte) : (s.raise code detail).outLen = s.outLen := rfl
@[simp] theorem State.raise_crcState (s : State) (code : Code) (detail : Byte) : (s.raise code detail).crcState = s.crcState := rfl
@[simp] theorem State.raise_ibuf (s : State) (code : Code) (detail : Byte) : (s.raise code detail).ibuf = s.ibuf := rfl
@[simp] theorem State.raise_obuf (s : State) (code : Code) (detail : Byte) : (s.raise code detail).obuf = s.obuf := rfl
@[simp] theorem State.raise_config (s : State) (code : Code) (detail : Byte) : (s.raise code detail).config = s.config := rfl
@[simp] theorem State.raise_powerOnDraw (s : State) (code : Code) (detail : Byte) : (s.raise code detail).powerOnDraw = s.powerOnDraw := rfl
@[simp] theorem State.raise_pending (s : State) (code : Code) (detail : Byte) : (s.raise code detail).pending = s.pending := rfl
@[simp] theorem State.raise_response (s : State) (code : Code) (detail : Byte) : (s.raise code detail).response = s.response := rfl

/-! ## finish -/

@[simp] theorem State.finish_statusCode (s : State) : (s.finish).statusCode = 0 := rfl
@[simp] theorem State.finish_statusDetail (s : State) : (s.finish).statusDetail = 0 := rfl
@[simp] theorem State.finish_statusOp (s : State) : (s.finish).statusOp = s.statusOp := rfl
@[simp] theorem State.finish_srcOff (s : State) : (s.finish).srcOff = s.srcOff := rfl
@[simp] theorem State.finish_srcLen (s : State) : (s.finish).srcLen = s.srcLen := rfl
@[simp] theorem State.finish_typeReg (s : State) : (s.finish).typeReg = s.typeReg := rfl
@[simp] theorem State.finish_length (s : State) : (s.finish).length = s.length := rfl
@[simp] theorem State.finish_crcStored (s : State) : (s.finish).crcStored = s.crcStored := rfl
@[simp] theorem State.finish_crcComputed (s : State) : (s.finish).crcComputed = s.crcComputed := rfl
@[simp] theorem State.finish_consumed (s : State) : (s.finish).consumed = s.consumed := rfl
@[simp] theorem State.finish_outLen (s : State) : (s.finish).outLen = s.outLen := rfl
@[simp] theorem State.finish_crcState (s : State) : (s.finish).crcState = s.crcState := rfl
@[simp] theorem State.finish_ibuf (s : State) : (s.finish).ibuf = s.ibuf := rfl
@[simp] theorem State.finish_obuf (s : State) : (s.finish).obuf = s.obuf := rfl
@[simp] theorem State.finish_config (s : State) : (s.finish).config = s.config := rfl
@[simp] theorem State.finish_powerOnDraw (s : State) : (s.finish).powerOnDraw = s.powerOnDraw := rfl
@[simp] theorem State.finish_pending (s : State) : (s.finish).pending = s.pending := rfl
@[simp] theorem State.finish_response (s : State) : (s.finish).response = s.response := rfl

/-! ## respond -/

@[simp] theorem State.respond_statusCode (s : State) (r : Response) : (s.respond r).statusCode = s.statusCode := rfl
@[simp] theorem State.respond_statusDetail (s : State) (r : Response) : (s.respond r).statusDetail = s.statusDetail := rfl
@[simp] theorem State.respond_statusOp (s : State) (r : Response) : (s.respond r).statusOp = s.statusOp := rfl
@[simp] theorem State.respond_srcOff (s : State) (r : Response) : (s.respond r).srcOff = s.srcOff := rfl
@[simp] theorem State.respond_srcLen (s : State) (r : Response) : (s.respond r).srcLen = s.srcLen := rfl
@[simp] theorem State.respond_typeReg (s : State) (r : Response) : (s.respond r).typeReg = s.typeReg := rfl
@[simp] theorem State.respond_length (s : State) (r : Response) : (s.respond r).length = s.length := rfl
@[simp] theorem State.respond_crcStored (s : State) (r : Response) : (s.respond r).crcStored = s.crcStored := rfl
@[simp] theorem State.respond_crcComputed (s : State) (r : Response) : (s.respond r).crcComputed = s.crcComputed := rfl
@[simp] theorem State.respond_consumed (s : State) (r : Response) : (s.respond r).consumed = s.consumed := rfl
@[simp] theorem State.respond_outLen (s : State) (r : Response) : (s.respond r).outLen = s.outLen := rfl
@[simp] theorem State.respond_crcState (s : State) (r : Response) : (s.respond r).crcState = s.crcState := rfl
@[simp] theorem State.respond_ibuf (s : State) (r : Response) : (s.respond r).ibuf = s.ibuf := rfl
@[simp] theorem State.respond_obuf (s : State) (r : Response) : (s.respond r).obuf = s.obuf := rfl
@[simp] theorem State.respond_config (s : State) (r : Response) : (s.respond r).config = s.config := rfl
@[simp] theorem State.respond_powerOnDraw (s : State) (r : Response) : (s.respond r).powerOnDraw = s.powerOnDraw := rfl
@[simp] theorem State.respond_pending (s : State) (r : Response) : (s.respond r).pending = s.pending := rfl
@[simp] theorem State.respond_response (s : State) (r : Response) : (s.respond r).response = r := rfl

/-! ## accept -/

@[simp] theorem State.accept_statusCode (s : State) (rest : List Txn) : (s.accept rest).statusCode = s.statusCode := rfl
@[simp] theorem State.accept_statusDetail (s : State) (rest : List Txn) : (s.accept rest).statusDetail = s.statusDetail := rfl
@[simp] theorem State.accept_statusOp (s : State) (rest : List Txn) : (s.accept rest).statusOp = s.statusOp := rfl
@[simp] theorem State.accept_srcOff (s : State) (rest : List Txn) : (s.accept rest).srcOff = s.srcOff := rfl
@[simp] theorem State.accept_srcLen (s : State) (rest : List Txn) : (s.accept rest).srcLen = s.srcLen := rfl
@[simp] theorem State.accept_typeReg (s : State) (rest : List Txn) : (s.accept rest).typeReg = s.typeReg := rfl
@[simp] theorem State.accept_length (s : State) (rest : List Txn) : (s.accept rest).length = s.length := rfl
@[simp] theorem State.accept_crcStored (s : State) (rest : List Txn) : (s.accept rest).crcStored = s.crcStored := rfl
@[simp] theorem State.accept_crcComputed (s : State) (rest : List Txn) : (s.accept rest).crcComputed = s.crcComputed := rfl
@[simp] theorem State.accept_consumed (s : State) (rest : List Txn) : (s.accept rest).consumed = s.consumed := rfl
@[simp] theorem State.accept_outLen (s : State) (rest : List Txn) : (s.accept rest).outLen = s.outLen := rfl
@[simp] theorem State.accept_crcState (s : State) (rest : List Txn) : (s.accept rest).crcState = s.crcState := rfl
@[simp] theorem State.accept_ibuf (s : State) (rest : List Txn) : (s.accept rest).ibuf = s.ibuf := rfl
@[simp] theorem State.accept_obuf (s : State) (rest : List Txn) : (s.accept rest).obuf = s.obuf := rfl
@[simp] theorem State.accept_config (s : State) (rest : List Txn) : (s.accept rest).config = s.config := rfl
@[simp] theorem State.accept_powerOnDraw (s : State) (rest : List Txn) : (s.accept rest).powerOnDraw = s.powerOnDraw := rfl
@[simp] theorem State.accept_pending (s : State) (rest : List Txn) : (s.accept rest).pending = rest := rfl
@[simp] theorem State.accept_response (s : State) (rest : List Txn) : (s.accept rest).response = .none := rfl

/-! ## resetRegisters -/

@[simp] theorem State.resetRegisters_statusCode (s : State) : (s.resetRegisters).statusCode = 0 := rfl
@[simp] theorem State.resetRegisters_statusDetail (s : State) : (s.resetRegisters).statusDetail = 0 := rfl
@[simp] theorem State.resetRegisters_statusOp (s : State) : (s.resetRegisters).statusOp = 0 := rfl
@[simp] theorem State.resetRegisters_srcOff (s : State) : (s.resetRegisters).srcOff = 0 := rfl
@[simp] theorem State.resetRegisters_srcLen (s : State) : (s.resetRegisters).srcLen = 0 := rfl
@[simp] theorem State.resetRegisters_typeReg (s : State) : (s.resetRegisters).typeReg = 0 := rfl
@[simp] theorem State.resetRegisters_length (s : State) : (s.resetRegisters).length = 0 := rfl
@[simp] theorem State.resetRegisters_crcStored (s : State) : (s.resetRegisters).crcStored = 0 := rfl
@[simp] theorem State.resetRegisters_crcComputed (s : State) : (s.resetRegisters).crcComputed = 0 := rfl
@[simp] theorem State.resetRegisters_consumed (s : State) : (s.resetRegisters).consumed = 0 := rfl
@[simp] theorem State.resetRegisters_outLen (s : State) : (s.resetRegisters).outLen = 0 := rfl
@[simp] theorem State.resetRegisters_crcState (s : State) : (s.resetRegisters).crcState = 0xFFFFFFFF := rfl
@[simp] theorem State.resetRegisters_ibuf (s : State) : (s.resetRegisters).ibuf = s.ibuf := rfl
@[simp] theorem State.resetRegisters_obuf (s : State) : (s.resetRegisters).obuf = s.obuf := rfl
@[simp] theorem State.resetRegisters_config (s : State) : (s.resetRegisters).config = s.config := rfl
@[simp] theorem State.resetRegisters_powerOnDraw (s : State) : (s.resetRegisters).powerOnDraw = s.powerOnDraw := rfl
@[simp] theorem State.resetRegisters_pending (s : State) : (s.resetRegisters).pending = s.pending := rfl
@[simp] theorem State.resetRegisters_response (s : State) : (s.resetRegisters).response = s.response := rfl

/-! ## setMem -/

@[simp] theorem State.setMem_statusCode (s : State) (b : Buffer) (m : Memory) : (s.setMem b m).statusCode = s.statusCode := by cases b <;> rfl
@[simp] theorem State.setMem_statusDetail (s : State) (b : Buffer) (m : Memory) : (s.setMem b m).statusDetail = s.statusDetail := by cases b <;> rfl
@[simp] theorem State.setMem_statusOp (s : State) (b : Buffer) (m : Memory) : (s.setMem b m).statusOp = s.statusOp := by cases b <;> rfl
@[simp] theorem State.setMem_srcOff (s : State) (b : Buffer) (m : Memory) : (s.setMem b m).srcOff = s.srcOff := by cases b <;> rfl
@[simp] theorem State.setMem_srcLen (s : State) (b : Buffer) (m : Memory) : (s.setMem b m).srcLen = s.srcLen := by cases b <;> rfl
@[simp] theorem State.setMem_typeReg (s : State) (b : Buffer) (m : Memory) : (s.setMem b m).typeReg = s.typeReg := by cases b <;> rfl
@[simp] theorem State.setMem_length (s : State) (b : Buffer) (m : Memory) : (s.setMem b m).length = s.length := by cases b <;> rfl
@[simp] theorem State.setMem_crcStored (s : State) (b : Buffer) (m : Memory) : (s.setMem b m).crcStored = s.crcStored := by cases b <;> rfl
@[simp] theorem State.setMem_crcComputed (s : State) (b : Buffer) (m : Memory) : (s.setMem b m).crcComputed = s.crcComputed := by cases b <;> rfl
@[simp] theorem State.setMem_consumed (s : State) (b : Buffer) (m : Memory) : (s.setMem b m).consumed = s.consumed := by cases b <;> rfl
@[simp] theorem State.setMem_outLen (s : State) (b : Buffer) (m : Memory) : (s.setMem b m).outLen = s.outLen := by cases b <;> rfl
@[simp] theorem State.setMem_crcState (s : State) (b : Buffer) (m : Memory) : (s.setMem b m).crcState = s.crcState := by cases b <;> rfl
@[simp] theorem State.setMem_config (s : State) (b : Buffer) (m : Memory) : (s.setMem b m).config = s.config := by cases b <;> rfl
@[simp] theorem State.setMem_powerOnDraw (s : State) (b : Buffer) (m : Memory) : (s.setMem b m).powerOnDraw = s.powerOnDraw := by cases b <;> rfl
@[simp] theorem State.setMem_pending (s : State) (b : Buffer) (m : Memory) : (s.setMem b m).pending = s.pending := by cases b <;> rfl
@[simp] theorem State.setMem_response (s : State) (b : Buffer) (m : Memory) : (s.setMem b m).response = s.response := by cases b <;> rfl

@[simp] theorem State.setMem_mem_same (s : State) (b : Buffer) (m : Memory) : (s.setMem b m).mem b = m := by cases b <;> rfl

@[simp] theorem State.setMem_obuf_ibuf (s : State) (m : Memory) : (s.setMem .obuf m).ibuf = s.ibuf := rfl

@[simp] theorem State.setMem_ibuf_obuf (s : State) (m : Memory) : (s.setMem .ibuf m).obuf = s.obuf := rfl

theorem State.setMem_mem_other (s : State) (b b' : Buffer) (m : Memory) (h : b' ≠ b) :
    (s.setMem b m).mem b' = s.mem b' := by
  cases b <;> cases b' <;> first | rfl | exact absurd rfl h

/-! ## The bytes of the buffers under the updates that touch no buffer -/

@[simp] theorem State.setOp_readByte (s : State) (op : BitVec 8) (b : Buffer) (i : Nat) :
    (s.setOp op).readByte b i = s.readByte b i := by cases b <;> rfl

@[simp] theorem State.raise_readByte (s : State) (code : Code) (detail : Byte) (b : Buffer) (i : Nat) :
    (s.raise code detail).readByte b i = s.readByte b i := by cases b <;> rfl

@[simp] theorem State.finish_readByte (s : State) (b : Buffer) (i : Nat) :
    s.finish.readByte b i = s.readByte b i := by cases b <;> rfl

@[simp] theorem State.respond_readByte (s : State) (r : Response) (b : Buffer) (i : Nat) :
    (s.respond r).readByte b i = s.readByte b i := by cases b <;> rfl

@[simp] theorem State.accept_readByte (s : State) (rest : List Txn) (b : Buffer) (i : Nat) :
    (s.accept rest).readByte b i = s.readByte b i := by cases b <;> rfl

@[simp] theorem State.resetRegisters_readByte (s : State) (b : Buffer) (i : Nat) :
    s.resetRegisters.readByte b i = s.readByte b i := by cases b <;> rfl

/-- A byte depends on the buffer's written bytes and the draw alone. -/
theorem State.readByte_congr (s s' : State) (b : Buffer) (i : Nat)
    (hm : s.mem b = s'.mem b) (hd : s.powerOnDraw = s'.powerOnDraw) : s.readByte b i = s'.readByte b i := by
  simp [State.readByte, hm, hd]

end Sys2Proof.Machine
end

