-- ==== Sys2Proof/Laws/Memory.lean ====
section
/-!
SUPPORT. The laws of the buffers: read after write, the canonical form, and runs of bytes.
-/
namespace Sys2Proof.Machine

/-! ## One byte -/

@[simp] theorem Memory.get?_write_same (m : Memory) (i : Nat) (b : Byte) :
    Memory.get? (Memory.write m i b) i = some b := by
  induction m with
  | nil => simp [Memory.write, Memory.get?]
  | cons c m ih =>
    obtain ⟨k, v⟩ := c
    unfold Memory.write
    split
    · simp [Memory.get?]
    · split
      · simp [Memory.get?]
      · rw [Memory.get?, if_neg (by omega), ih]

theorem Memory.get?_write_other (m : Memory) (i j : Nat) (b : Byte) (h : j ≠ i) :
    Memory.get? (Memory.write m i b) j = Memory.get? m j := by
  induction m with
  | nil => simp [Memory.write, Memory.get?, Ne.symm h]
  | cons c m ih =>
    obtain ⟨k, v⟩ := c
    unfold Memory.write
    split
    · simp [Memory.get?, Ne.symm h]
    · split
      · rename_i hk
        subst hk
        simp [Memory.get?, Ne.symm h]
      · simp [Memory.get?, ih]

theorem Memory.get?_write (m : Memory) (i j : Nat) (b : Byte) :
    Memory.get? (Memory.write m i b) j = if j = i then some b else Memory.get? m j := by
  split
  · rename_i h; subst h; simp
  · rename_i h; exact Memory.get?_write_other m i j b h

/-- A write lists no index but the one written and those listed before. -/
theorem Memory.mem_write (m : Memory) (i : Nat) (b : Byte) (c : Host.Cell)
    (hc : c ∈ Memory.write m i b) : c = (i, b) ∨ c ∈ m := by
  induction m with
  | nil => simpa [Memory.write] using hc
  | cons d m ih =>
    obtain ⟨k, v⟩ := d
    unfold Memory.write at hc
    split at hc
    · simpa using hc
    · split at hc
      · rcases List.mem_cons.1 hc with h | h
        · exact .inl h
        · exact .inr (List.mem_cons_of_mem _ h)
      · rcases List.mem_cons.1 hc with h | h
        · exact .inr (by simp [h])
        · rcases ih h with h | h
          · exact .inl h
          · exact .inr (List.mem_cons_of_mem _ h)

theorem Memory.wf_write (m : Memory) (i : Nat) (b : Byte) (h : Memory.wf m) :
    Memory.wf (Memory.write m i b) := by
  induction m with
  | nil => simp [Memory.write, Memory.wf]
  | cons c m ih =>
    obtain ⟨k, v⟩ := c
    have hrest := List.pairwise_cons.1 h
    unfold Memory.write
    split
    · rename_i hik
      refine List.pairwise_cons.2 ⟨fun d hd => ?_, h⟩
      rcases List.mem_cons.1 hd with h' | h'
      · simpa [h'] using hik
      · have := hrest.1 d h'
        simp only at this ⊢
        omega
    · split
      · rename_i hik
        subst hik
        exact List.pairwise_cons.2 ⟨fun d hd => hrest.1 d hd, hrest.2⟩
      · refine List.pairwise_cons.2 ⟨fun d hd => ?_, ih hrest.2⟩
        rcases Memory.mem_write m i b d hd with h' | h'
        · simp only [h']; omega
        · exact hrest.1 d h'

theorem Memory.within_write (m : Memory) (i n : Nat) (b : Byte) (h : Memory.within m n) (hi : i < n) :
    Memory.within (Memory.write m i b) n := by
  intro c hc
  rcases Memory.mem_write m i b c hc with h' | h'
  · simpa [h'] using hi
  · exact h c h'

/-! ## Runs of bytes -/

theorem Memory.writeAll_append (m : Memory) (a : Nat) (xs ys : List Byte) :
    Memory.writeAll m a (xs ++ ys) = Memory.writeAll (Memory.writeAll m a xs) (a + xs.length) ys := by
  induction xs generalizing m a with
  | nil => simp [Memory.writeAll]
  | cons x xs ih =>
    simp only [List.cons_append, Memory.writeAll, ih, List.length_cons]
    congr 1
    omega

theorem Memory.get?_writeAll_outside (m : Memory) (a i : Nat) (bs : List Byte)
    (h : i < a ∨ a + bs.length ≤ i) : Memory.get? (Memory.writeAll m a bs) i = Memory.get? m i := by
  induction bs generalizing m a with
  | nil => rfl
  | cons b bs ih =>
    simp only [List.length_cons] at h
    rw [Memory.writeAll, ih _ _ (by omega), Memory.get?_write_other _ _ _ _ (by omega)]

theorem Memory.get?_writeAll_inside (m : Memory) (a k : Nat) (bs : List Byte) (h : k < bs.length) :
    Memory.get? (Memory.writeAll m a bs) (a + k) = some bs[k] := by
  induction bs generalizing m a k with
  | nil => simp at h
  | cons b bs ih =>
    cases k with
    | zero =>
      rw [Memory.writeAll, Memory.get?_writeAll_outside _ _ _ _ (by omega)]
      simp
    | succ k =>
      rw [Memory.writeAll, show a + (k + 1) = a + 1 + k by omega, ih _ _ _ (by simpa using h)]
      simp

theorem Memory.wf_writeAll (m : Memory) (a : Nat) (bs : List Byte) (h : Memory.wf m) :
    Memory.wf (Memory.writeAll m a bs) := by
  induction bs generalizing m a with
  | nil => exact h
  | cons b bs ih => exact ih _ _ (Memory.wf_write _ _ _ h)

theorem Memory.within_writeAll (m : Memory) (a n : Nat) (bs : List Byte) (h : Memory.within m n)
    (hn : a + bs.length ≤ n) : Memory.within (Memory.writeAll m a bs) n := by
  induction bs generalizing m a with
  | nil => exact h
  | cons b bs ih =>
    simp only [List.length_cons] at hn
    exact ih _ _ (Memory.within_write _ _ _ _ h (by omega)) (by omega)

/-- In canonical form no index below the first entry is listed. -/
theorem Memory.get?_none_of_lt (m : Memory) (i : Nat) (h : ∀ c ∈ m, i < c.1) : Memory.get? m i = none := by
  induction m with
  | nil => rfl
  | cons c m ih =>
    obtain ⟨k, v⟩ := c
    have hk : i < k := h (k, v) (by simp)
    rw [Memory.get?, if_neg (by omega)]
    exact ih fun c hc => h c (List.mem_cons_of_mem _ hc)

/-- Two memories in canonical form that hold the same bytes are the same list. -/
theorem Memory.eq_of_get?_eq (m m' : Memory) (h : Memory.wf m) (h' : Memory.wf m')
    (hg : ∀ i, Memory.get? m i = Memory.get? m' i) : m = m' := by
  induction m generalizing m' with
  | nil =>
    cases m' with
    | nil => rfl
    | cons c m' =>
      have := hg c.1
      simp [Memory.get?] at this
  | cons c m ih =>
    obtain ⟨k, v⟩ := c
    cases m' with
    | nil =>
      have := hg k
      simp [Memory.get?] at this
    | cons c' m' =>
      obtain ⟨k', v'⟩ := c'
      have hm := List.pairwise_cons.1 h
      have hm' := List.pairwise_cons.1 h'
      have hkk : k = k' := by
        by_contra hne
        rcases Nat.lt_or_gt_of_ne hne with hlt | hgt
        · have h1 := hg k
          rw [Memory.get?, if_pos rfl, Memory.get?, if_neg (by omega),
            Memory.get?_none_of_lt m' k fun c hc => by have := hm'.1 c hc; simp only at this; omega] at h1
          simp at h1
        · have h1 := hg k'
          rw [Memory.get?, if_neg (by omega), Memory.get?, if_pos rfl,
            Memory.get?_none_of_lt m k' fun c hc => by have := hm.1 c hc; simp only at this; omega] at h1
          simp at h1
      subst hkk
      have hv : v = v' := by
        have h1 := hg k
        simpa [Memory.get?] using h1
      subst hv
      rw [ih m' hm.2 hm'.2]
      intro i
      by_cases hi : k = i
      · subst hi
        rw [Memory.get?_none_of_lt m k fun c hc => hm.1 c hc,
          Memory.get?_none_of_lt m' k fun c hc => hm'.1 c hc]
      · have h1 := hg i
        rwa [Memory.get?, if_neg hi, Memory.get?, if_neg hi] at h1

/-! ## Bytes and runs of bytes of a state -/

@[simp] theorem State.readByte_setMem_other (s : State) (b b' : Buffer) (m : Memory) (i : Nat) (h : b' ≠ b) :
    (s.setMem b m).readByte b' i = s.readByte b' i :=
  State.readByte_congr _ _ _ _ (State.setMem_mem_other s b b' m h) (by simp)

theorem State.readByte_setMem_same (s : State) (b : Buffer) (m : Memory) (i : Nat) :
    (s.setMem b m).readByte b i = Memory.read m s.powerOnDraw b i := by
  simp [State.readByte]

theorem State.readByte_memWrite_inside (s : State) (b : Buffer) (a k : Nat) (bs : List Byte)
    (h : k < bs.length) : (s.memWrite b a bs).readByte b (a + k) = bs[k] := by
  rw [State.memWrite, State.readByte_setMem_same, Memory.read, Memory.get?_writeAll_inside _ _ _ _ h, Option.getD_some]

theorem State.readByte_memWrite_outside (s : State) (b : Buffer) (a i : Nat) (bs : List Byte)
    (h : i < a ∨ a + bs.length ≤ i) : (s.memWrite b a bs).readByte b i = s.readByte b i := by
  rw [State.memWrite, State.readByte_setMem_same, Memory.read, Memory.get?_writeAll_outside _ _ _ _ h]
  rfl

@[simp] theorem Memory.readRun_length (m : Memory) (draw : Nat) (b : Buffer) (a n : Nat) :
    (Memory.readRun m draw b a n).length = n := by
  induction n generalizing a with
  | zero => rfl
  | succ n ih => simp [Memory.readRun, ih]

@[simp] theorem State.memRead_length (s : State) (b : Buffer) (a n : Nat) : (s.memRead b a n).length = n :=
  Memory.readRun_length _ _ _ _ _

@[simp] theorem State.memRead_zero (s : State) (b : Buffer) (a : Nat) : s.memRead b a 0 = [] := rfl

theorem State.memRead_succ (s : State) (b : Buffer) (a n : Nat) :
    s.memRead b a (n + 1) = s.readByte b a :: s.memRead b (a + 1) n := rfl

theorem State.memRead_getElem (s : State) (b : Buffer) (a n k : Nat) (h : k < (s.memRead b a n).length) :
    (s.memRead b a n)[k] = s.readByte b (a + k) := by
  induction n generalizing a k with
  | zero => simp at h
  | succ n ih =>
    cases k with
    | zero => rfl
    | succ k =>
      simp only [State.memRead_succ, List.getElem_cons_succ]
      rw [ih]
      congr 1
      omega

/-- `MemRead` as the list of its bytes (R12). -/
theorem State.memRead_eq_map (s : State) (b : Buffer) (a n : Nat) :
    s.memRead b a n = (List.range n).map fun k => s.readByte b (a + k) :=
  List.ext_getElem (by simp) fun k h1 h2 => by simp [State.memRead_getElem]

theorem State.memRead_add (s : State) (b : Buffer) (a n k : Nat) :
    s.memRead b a (n + k) = s.memRead b a n ++ s.memRead b (a + n) k := by
  induction n generalizing a with
  | zero => simp
  | succ n ih =>
    rw [show n + 1 + k = (n + k) + 1 by omega, State.memRead_succ, State.memRead_succ, ih, List.cons_append]
    congr 3
    omega

/-- Two states whose bytes agree over a run read the same run. -/
theorem State.memRead_congr (s s' : State) (b b' : Buffer) (a a' n : Nat)
    (h : ∀ k, k < n → s.readByte b (a + k) = s'.readByte b' (a' + k)) :
    s.memRead b a n = s'.memRead b' a' n :=
  List.ext_getElem (by simp) fun k h1 h2 => by
    rw [State.memRead_getElem, State.memRead_getElem]
    exact h k (by simpa using h1)

end Sys2Proof.Machine
end

