-- ==== Sys2Proof/Laws/Operands.lean ====
section
/-!
SUPPORT. The laws of byte order and of the CRC: `CRC_UPDATE` is linear and loses nothing.
-/
namespace Sys2Proof.Machine

/-! ## Byte order -/

@[simp] theorem bytesBE32_length (v : Word) : (bytesBE32 v).length = 4 := rfl

@[simp] theorem be32_byte0 (b0 b1 b2 b3 : Byte) : (be32 b0 b1 b2 b3).extractLsb' 24 8 = b0 := by
  ext i hi
  simp only [be32, BitVec.getElem_extractLsb', BitVec.getLsbD_append]
  rw [if_neg (by omega), if_neg (by omega), if_neg (by omega)]
  rw [← BitVec.getLsbD_eq_getElem]
  congr 1
  omega

@[simp] theorem be32_byte1 (b0 b1 b2 b3 : Byte) : (be32 b0 b1 b2 b3).extractLsb' 16 8 = b1 := by
  ext i hi
  simp only [be32, BitVec.getElem_extractLsb', BitVec.getLsbD_append]
  rw [if_neg (by omega), if_neg (by omega), if_pos (by omega)]
  rw [← BitVec.getLsbD_eq_getElem]
  congr 1
  omega

@[simp] theorem be32_byte2 (b0 b1 b2 b3 : Byte) : (be32 b0 b1 b2 b3).extractLsb' 8 8 = b2 := by
  ext i hi
  simp only [be32, BitVec.getElem_extractLsb', BitVec.getLsbD_append]
  rw [if_neg (by omega), if_pos (by omega)]
  rw [← BitVec.getLsbD_eq_getElem]
  congr 1
  omega

@[simp] theorem be32_byte3 (b0 b1 b2 b3 : Byte) : (be32 b0 b1 b2 b3).extractLsb' 0 8 = b3 := by
  ext i hi
  simp only [be32, BitVec.getElem_extractLsb', BitVec.getLsbD_append]
  rw [if_pos (by omega)]
  rw [← BitVec.getLsbD_eq_getElem]
  congr 1
  omega

/-- `BYTES_BE32` undoes `BE32` (R11). -/
theorem bytesBE32_be32 (b0 b1 b2 b3 : Byte) : bytesBE32 (be32 b0 b1 b2 b3) = [b0, b1, b2, b3] := by
  simp [bytesBE32]

/-- `BE32` undoes `BYTES_BE32` (R11). -/
theorem be32_bytesBE32 (v : Word) :
    be32 (v.extractLsb' 24 8) (v.extractLsb' 16 8) (v.extractLsb' 8 8) (v.extractLsb' 0 8) = v := by
  ext i hi
  simp only [be32, ← BitVec.getLsbD_eq_getElem, BitVec.getLsbD_append, BitVec.getLsbD_extractLsb']
  split_ifs with h1 h2 h3
  · simp [h1]
  · rw [show 8 + (i - 8) = i by omega]
    simp [show i - 8 < 8 by omega]
  · rw [show 16 + (i - 8 - 8) = i by omega]
    simp [show i - 8 - 8 < 8 by omega]
  · rw [show 24 + (i - 8 - 8 - 8) = i by omega]
    simp [show i - 8 - 8 - 8 < 8 by omega]

/-- The bytes of TYPE after `BE32` loads it (R12, R29). -/
theorem typeByte_be32 (b0 b1 b2 b3 : Byte) :
    typeByte (be32 b0 b1 b2 b3) 0 = b0 ∧ typeByte (be32 b0 b1 b2 b3) 1 = b1 ∧
      typeByte (be32 b0 b1 b2 b3) 2 = b2 ∧ typeByte (be32 b0 b1 b2 b3) 3 = b3 := by
  refine ⟨?_, ?_, ?_, ?_⟩ <;> simp [typeByte]

/-! ## CRC -/

/-- One repetition as a shift and a conditional exclusive-or. -/
theorem crcShift_eq (c : Word) : crcShift c = (c >>> 1) ^^^ if c.getLsbD 0 then 0xEDB88320#32 else 0#32 := by
  unfold crcShift
  split <;> simp

/-- One repetition is linear over exclusive-or. -/
theorem crcShift_xor (a b : Word) : crcShift (a ^^^ b) = crcShift a ^^^ crcShift b := by
  simp only [crcShift_eq, BitVec.ushiftRight_xor_distrib, BitVec.getLsbD_xor]
  cases a.getLsbD 0 <;> cases b.getLsbD 0 <;> ext i <;> simp <;> grind

theorem crcShift_eq_zero (c : Word) (h : crcShift c = 0#32) : c = 0#32 := by
  rw [crcShift_eq] at h
  have hbit : ∀ i, (c >>> 1).getLsbD i = (if c.getLsbD 0 then 0xEDB88320#32 else 0#32).getLsbD i := by
    intro i
    have h1 := congrArg (fun x => BitVec.getLsbD x i) h
    simpa using h1
  have h0 : c.getLsbD 0 = false := by
    have h31 := hbit 31
    cases hc : c.getLsbD 0
    · rfl
    · simp [hc] at h31
  apply BitVec.eq_of_getLsbD_eq
  intro i hi
  cases i with
  | zero => simpa using h0
  | succ i =>
    have h1 := hbit i
    simp only [h0, BitVec.getLsbD_ushiftRight] at h1
    rw [Nat.add_comm i 1, h1]
    simp

/-- One repetition loses nothing. -/
theorem crcShift_injective (a b : Word) (h : crcShift a = crcShift b) : a = b := by
  have h1 : crcShift (a ^^^ b) = 0#32 := by rw [crcShift_xor, h, BitVec.xor_self]
  exact BitVec.xor_eq_zero_iff.1 (crcShift_eq_zero _ h1)

/-- The eight repetitions lose nothing. -/
theorem crcUpdate_injective (c c' : Word) (b b' : Byte) (h : crcUpdate c b = crcUpdate c' b') :
    c ^^^ b.setWidth 32 = c' ^^^ b'.setWidth 32 := by
  unfold crcUpdate at h
  iterate 8 replace h := crcShift_injective _ _ h
  exact h

/-- Different registers stay different under the same byte. -/
theorem crcUpdate_injective_state (c c' : Word) (b : Byte) (h : crcUpdate c b = crcUpdate c' b) : c = c' := by
  simpa using crcUpdate_injective c c' b b h

/-- Different bytes leave different registers. -/
theorem crcUpdate_injective_byte (c : Word) (b b' : Byte) (h : crcUpdate c b = crcUpdate c b') : b = b' := by
  have h1 := crcUpdate_injective c c b b' h
  have h2 : b.setWidth 32 = b'.setWidth 32 := by simpa using h1
  have h3 := congrArg (BitVec.setWidth 8) h2
  simpa using h3

@[simp] theorem crcFeed_nil (c : Word) : crcFeed c [] = c := rfl

@[simp] theorem crcFeed_cons (c : Word) (b : Byte) (bs : List Byte) :
    crcFeed c (b :: bs) = crcFeed (crcUpdate c b) bs := rfl

/-- Feeding two pieces is feeding their concatenation (R159). -/
theorem crcFeed_append (c : Word) (xs ys : List Byte) :
    crcFeed c (xs ++ ys) = crcFeed (crcFeed c xs) ys := by
  simp [crcFeed]

theorem crcFeed_injective_state (c c' : Word) (bs : List Byte) (h : crcFeed c bs = crcFeed c' bs) : c = c' := by
  induction bs generalizing c c' with
  | nil => exact h
  | cons b bs ih => exact crcUpdate_injective_state _ _ _ (ih _ _ h)

/-! ## The range mask -/

/-- The mask is zero exactly when all four bytes are letter bytes (R123, R124). -/
theorem rangeMask_eq_zero (b0 b1 b2 b3 : Byte) :
    rangeMask b0 b1 b2 b3 = 0 ↔
      letter b0 = true ∧ letter b1 = true ∧ letter b2 = true ∧ letter b3 = true := by
  unfold rangeMask outOfRange
  cases letter b0 <;> cases letter b1 <;> cases letter b2 <;> cases letter b3 <;> decide

/-- Bit `i` of the mask says that byte `i` is not a letter byte (R25). -/
theorem rangeMask_bits (b0 b1 b2 b3 : Byte) :
    (rangeMask b0 b1 b2 b3).getLsbD 0 = !letter b0 ∧ (rangeMask b0 b1 b2 b3).getLsbD 1 = !letter b1 ∧
      (rangeMask b0 b1 b2 b3).getLsbD 2 = !letter b2 ∧ (rangeMask b0 b1 b2 b3).getLsbD 3 = !letter b3 := by
  unfold rangeMask outOfRange
  cases letter b0 <;> cases letter b1 <;> cases letter b2 <;> cases letter b3 <;> decide

theorem rangeMask_le (b0 b1 b2 b3 : Byte) : (rangeMask b0 b1 b2 b3).toNat ≤ 15 := by
  unfold rangeMask outOfRange
  cases letter b0 <;> cases letter b1 <;> cases letter b2 <;> cases letter b3 <;> decide

end Sys2Proof.Machine
end

