-- ==== Sys2Proof/Laws/Ops.lean ====
section
/-!
SUPPORT. What each shared operation and each command body can do, once each: the provers cite these and do not
unfold the bodies.
-/
namespace Sys2Proof.Machine

/-! ## The region and the host's next transaction -/

theorem State.regionBad_eq_true (s : State) :
    s.regionBad = true ↔ s.config.bufBytes < s.srcOff.toNat + s.srcLen.toNat := by simp [State.regionBad]

theorem State.regionBad_eq_false (s : State) :
    s.regionBad = false ↔ s.srcOff.toNat + s.srcLen.toNat ≤ s.config.bufBytes := by simp [State.regionBad]

theorem State.region_eq_regionBytes (s : State) : s.region = regionBytes s := State.memRead_eq_map _ _ _ _

@[simp] theorem State.region_length (s : State) : s.region.length = s.srcLen.toNat := by simp [State.region]

@[simp] theorem State.region_setOp (s : State) (op : BitVec 8) : (s.setOp op).region = s.region :=
  State.memRead_congr _ _ _ _ _ _ _ fun _ _ => State.setOp_readByte _ _ _ _

@[simp] theorem State.regionBad_setOp (s : State) (op : BitVec 8) : (s.setOp op).regionBad = s.regionBad := rfl

@[simp] theorem State.fetch_none (s : State) : s.fetch = none ↔ s.pending = [] := by
  unfold State.fetch
  split <;> simp [*]

theorem State.fetch_some (s s1 : State) (t : Txn) :
    s.fetch = some (t, s1) ↔ ∃ rest, s.pending = t :: rest ∧ s1 = s.accept rest := by
  unfold State.fetch
  split
  · simp [*]
  · rename_i t' rest' h
    simp only [h, Option.some.injEq, Prod.mk.injEq, List.cons.injEq]
    constructor
    · rintro ⟨rfl, rfl⟩
      exact ⟨rest', ⟨rfl, rfl⟩, rfl⟩
    · rintro ⟨rest, ⟨rfl, rfl⟩, rfl⟩
      exact ⟨rfl, rfl⟩

/-- One more step of a run, in the names of the machine (Host/Core.lean). -/
theorem core_run_succ (s : State) (k : Nat) :
    core.run (k + 1) s = match step s with
      | .next s' => core.run k s'
      | .fault r => .fault r
      | .refused r => .refused r := by
  have h : ∀ o, core.step s = o → core.run (k + 1) s = _ :=
    fun o ho => (Host.Core.run.eq_2 core s k).trans (by rw [ho])
  cases hx : step s with
  | next s' => exact h _ hx
  | fault r => exact h _ hx
  | refused r => exact h _ hx

/-! ## The bodies of the commands -/

/-- VALIDATE (R123): either every byte is a letter byte and it ends with OK, or it reports the mask. -/
theorem runValidate_cases (s : State) :
    (typeMask s.typeReg = 0 ∧ runValidate s = s.finish) ∨
    (typeMask s.typeReg ≠ 0 ∧ runValidate s = s.raise .invalidTypeCode (typeMask s.typeReg)) := by
  unfold runValidate
  split
  · exact .inr ⟨‹_›, rfl⟩
  · exact .inl ⟨not_not.1 ‹_›, rfl⟩

/-- VALIDATE_STR (R124): bad region, wrong length, or TYPE loaded and then checked. -/
theorem runValidateStr_cases (s : State) :
    (s.regionBad = true ∧ runValidateStr s = s.raise .badRegion 0) ∨
    (s.regionBad = false ∧ s.srcLen.toNat ≠ 4 ∧ runValidateStr s = s.raise .invalidTypeCode 0x10) ∨
    (s.regionBad = false ∧ s.srcLen.toNat = 4 ∧
      runValidateStr s = runValidate { s with typeReg := s.readBE32 .ibuf s.srcOff.toNat }) := by
  unfold runValidateStr
  cases hb : s.regionBad
  · by_cases hn : s.srcLen.toNat = 4
    · refine .inr (.inr ⟨rfl, hn, ?_⟩)
      rw [if_neg (by simp), if_neg (by simpa using hn)]
      unfold runValidate State.readBE32
      simp only [typeMask, typeByte_be32]
    · refine .inr (.inl ⟨rfl, hn, ?_⟩)
      rw [if_neg (by simp), if_pos (by simpa using hn)]
  · exact .inl ⟨rfl, if_pos rfl⟩

/-- CRC_ACCUM (R154): bad region, or the region is fed. -/
theorem runCrcAccum_cases (s : State) :
    (s.regionBad = true ∧ runCrcAccum s = s.raise .badRegion 0) ∨
    (s.regionBad = false ∧
      runCrcAccum s = State.finish { s with crcState := crcFeed s.crcState s.region }) := by
  unfold runCrcAccum
  cases hb : s.regionBad
  · exact .inr ⟨rfl, if_neg (by simp)⟩
  · exact .inl ⟨rfl, if_pos rfl⟩

/-- PARSE (R181): bad region, too short for a frame, too short for this frame, or the body. -/
theorem runParse_cases (s : State) :
    (s.regionBad = true ∧ runParse s = State.raise { s with consumed := 0 } .badRegion 0) ∨
    (s.regionBad = false ∧ s.srcLen.toNat < 12 ∧
      runParse s = State.raise { s with consumed := 0 } .truncated 0x01) ∨
    (s.regionBad = false ∧ 12 ≤ s.srcLen.toNat ∧
      s.srcLen.toNat < 12 + (s.readBE32 .ibuf s.srcOff.toNat).toNat ∧
      runParse s = State.raise { s with consumed := 0 } .truncated 0x02) ∨
    (s.regionBad = false ∧ 12 + (s.readBE32 .ibuf s.srcOff.toNat).toNat ≤ s.srcLen.toNat ∧
      runParse s = parseBody (s.readBE32 .ibuf s.srcOff.toNat).toNat { s with consumed := 0 }) := by
  have hb' : State.regionBad { s with consumed := 0 } = s.regionBad := rfl
  have hl : State.readBE32 { s with consumed := 0 } .ibuf s.srcOff.toNat = s.readBE32 .ibuf s.srcOff.toNat := rfl
  unfold runParse
  simp only [hb', hl]
  cases hb : s.regionBad
  · by_cases h1 : s.srcLen.toNat < 12
    · exact .inr (.inl ⟨rfl, h1, by simp [h1]⟩)
    · by_cases h2 : s.srcLen.toNat < 12 + (s.readBE32 .ibuf s.srcOff.toNat).toNat
      · exact .inr (.inr (.inl ⟨rfl, by omega, h2, by simp [h1, h2]⟩))
      · exact .inr (.inr (.inr ⟨rfl, by omega, by simp [h1, h2]⟩))
  · exact .inl ⟨rfl, by simp⟩

/-- SERIALIZE (R189): bad region, frame too large for OBUF, or the body. -/
theorem runSerialize_cases (s : State) :
    (s.regionBad = true ∧ runSerialize s = State.raise { s with outLen := 0 } .badRegion 0) ∨
    (s.regionBad = false ∧ s.config.bufBytes < 12 + s.srcLen.toNat ∧
      runSerialize s = State.raise { s with outLen := 0 } .outputOverflow 0) ∨
    (s.regionBad = false ∧ 12 + s.srcLen.toNat ≤ s.config.bufBytes ∧
      runSerialize s = serializeBody { s with outLen := 0 }) := by
  have hb' : State.regionBad { s with outLen := 0 } = s.regionBad := rfl
  unfold runSerialize
  simp only [hb']
  cases hb : s.regionBad
  · by_cases h1 : s.config.bufBytes < 12 + s.srcLen.toNat
    · exact .inr (.inl ⟨rfl, h1, by simp [h1]⟩)
    · exact .inr (.inr ⟨rfl, by omega, by simp [h1]⟩)
  · exact .inl ⟨rfl, by simp⟩

/-- The body of PARSE over one run of bytes: the CRC covers the `4 + len` bytes from the type code on (R181). -/
theorem parseBody_eq (len : Nat) (s : State) :
    parseBody len s =
      if s.readBE32 .ibuf (s.srcOff.toNat + 8 + len) = crc32 (s.memRead .ibuf (s.srcOff.toNat + 4) (4 + len))
      then State.finish { s with
        length := BitVec.ofNat 32 len
        typeReg := s.readBE32 .ibuf (s.srcOff.toNat + 4)
        crcStored := s.readBE32 .ibuf (s.srcOff.toNat + 8 + len)
        crcComputed := crc32 (s.memRead .ibuf (s.srcOff.toNat + 4) (4 + len))
        consumed := BitVec.ofNat 32 (12 + len) }
      else State.raise { s with
        length := BitVec.ofNat 32 len
        typeReg := s.readBE32 .ibuf (s.srcOff.toNat + 4)
        crcStored := s.readBE32 .ibuf (s.srcOff.toNat + 8 + len)
        crcComputed := crc32 (s.memRead .ibuf (s.srcOff.toNat + 4) (4 + len)) } .crcMismatch 0 := by
  have h : s.memRead .ibuf (s.srcOff.toNat + 4) (4 + len) =
      s.memRead .ibuf (s.srcOff.toNat + 4) 4 ++ s.memRead .ibuf (s.srcOff.toNat + 8) len := by
    rw [State.memRead_add]
  rw [h]
  unfold parseBody
  simp only [ne_eq, ite_not]

/-! ## Frames of bytes -/

theorem frame_length (t : Word) (p : List Byte) : (frame t p).length = 12 + p.length := by
  simp [frame]
  omega

/-- The four writes of SERIALIZE are one write of the frame at index 0 (R180, R189). -/
theorem serializeBody_eq (s : State) :
    serializeBody s = State.finish { s with
      obuf := Memory.writeAll s.obuf 0 (frame s.typeReg s.region)
      length := s.srcLen
      crcStored := crc32 (bytesBE32 s.typeReg ++ s.region)
      crcComputed := crc32 (bytesBE32 s.typeReg ++ s.region)
      outLen := BitVec.ofNat 32 (12 + s.srcLen.toNat) } := by
  have hlen : BitVec.ofNat 32 s.region.length = s.srcLen := by simp
  have hw : Memory.writeAll s.obuf 0 (frame s.typeReg s.region) =
      Memory.writeAll (Memory.writeAll (Memory.writeAll (Memory.writeAll s.obuf 0 (bytesBE32 s.srcLen)) 4
        (bytesBE32 s.typeReg)) 8 s.region) (8 + s.srcLen.toNat)
        (bytesBE32 (crc32 (bytesBE32 s.typeReg ++ s.region))) := by
    rw [frame, hlen, Memory.writeAll_append, Memory.writeAll_append, Memory.writeAll_append]
    simp only [List.length_append, bytesBE32_length, State.region_length]
    congr 1
    omega
  rw [hw]
  simp only [serializeBody, State.memWrite, State.mem, State.setMem, BitVec.ofNat_toNat, BitVec.setWidth_eq]

end Sys2Proof.Machine
end

