-- ==== Sys2Proof/Laws/PerInstr.lean ====
section
/-!
SUPPORT. One lemma per constructor about the encodings: what `encode` gives is always the transaction of a well-formed
instruction that is no command (R90), and the constructors that have a command word are exactly the commands (R92).
-/
namespace Sys2Proof.Laws

/-- Every register write decodes to a well-formed instruction that is no command (R95, R224). -/
theorem decodeRegWr_wellFormed (off : BitVec 8) (data : Word) :
    WellFormed (decodeRegWr off data) = true ∧ (decodeRegWr off data).isCommand = false := by
  have h : ∀ o : BitVec 8, offSlot o = 0x00#6 ∨ offSlot o = 0x02#6 ∨ offSlot o = 0x03#6 ∨ offSlot o = 0x04#6 ∨
      offSlot o = 0x0B#6 ∨ offSlot o = 0x0C#6 ∨ offSlot o = 0x0D#6 ∨ ignoresWrite o = true := by decide +kernel
  unfold decodeRegWr
  split_ifs <;> first | exact ⟨rfl, rfl⟩ | skip
  exact ⟨by rcases h off with h | h | h | h | h | h | h | h <;> first | exact h | contradiction, rfl⟩

namespace Encodes

/-- The family's statement about one instruction. -/
def Statement (i : Instr) : Prop :=
  WellFormed (decode (encode i)) = true ∧ (decode (encode i)).isCommand = false ∧
    i.isCommand = (encodeCommand i).isSome

theorem nop : Statement .nop :=
  ⟨(decodeRegWr_wellFormed _ _).1, (decodeRegWr_wellFormed _ _).2, rfl⟩

theorem crcInit : Statement .crcInit :=
  ⟨(decodeRegWr_wellFormed _ _).1, (decodeRegWr_wellFormed _ _).2, rfl⟩

theorem crcAccum : Statement .crcAccum :=
  ⟨(decodeRegWr_wellFormed _ _).1, (decodeRegWr_wellFormed _ _).2, rfl⟩

theorem validate : Statement .validate :=
  ⟨(decodeRegWr_wellFormed _ _).1, (decodeRegWr_wellFormed _ _).2, rfl⟩

theorem validateStr : Statement .validateStr :=
  ⟨(decodeRegWr_wellFormed _ _).1, (decodeRegWr_wellFormed _ _).2, rfl⟩

theorem parse : Statement .parse :=
  ⟨(decodeRegWr_wellFormed _ _).1, (decodeRegWr_wellFormed _ _).2, rfl⟩

theorem serialize : Statement .serialize :=
  ⟨(decodeRegWr_wellFormed _ _).1, (decodeRegWr_wellFormed _ _).2, rfl⟩

theorem illegal (v : Word) : Statement (.illegal v) :=
  ⟨(decodeRegWr_wellFormed _ _).1, (decodeRegWr_wellFormed _ _).2, rfl⟩

theorem wrCmd (low : BitVec 2) (v : Word) : Statement (.wrCmd low v) :=
  ⟨(decodeRegWr_wellFormed _ _).1, (decodeRegWr_wellFormed _ _).2, rfl⟩

theorem wrSrcOff (low : BitVec 2) (v : Word) : Statement (.wrSrcOff low v) :=
  ⟨(decodeRegWr_wellFormed _ _).1, (decodeRegWr_wellFormed _ _).2, rfl⟩

theorem wrSrcLen (low : BitVec 2) (v : Word) : Statement (.wrSrcLen low v) :=
  ⟨(decodeRegWr_wellFormed _ _).1, (decodeRegWr_wellFormed _ _).2, rfl⟩

theorem wrType (low : BitVec 2) (v : Word) : Statement (.wrType low v) :=
  ⟨(decodeRegWr_wellFormed _ _).1, (decodeRegWr_wellFormed _ _).2, rfl⟩

theorem wrCrcState (low : BitVec 2) (v : Word) : Statement (.wrCrcState low v) :=
  ⟨(decodeRegWr_wellFormed _ _).1, (decodeRegWr_wellFormed _ _).2, rfl⟩

theorem wrCrcIn8 (low : BitVec 2) (v : Word) : Statement (.wrCrcIn8 low v) :=
  ⟨(decodeRegWr_wellFormed _ _).1, (decodeRegWr_wellFormed _ _).2, rfl⟩

theorem wrCrcIn32 (low : BitVec 2) (v : Word) : Statement (.wrCrcIn32 low v) :=
  ⟨(decodeRegWr_wellFormed _ _).1, (decodeRegWr_wellFormed _ _).2, rfl⟩

theorem wrIgnored (off : BitVec 8) (v : Word) : Statement (.wrIgnored off v) :=
  ⟨(decodeRegWr_wellFormed _ _).1, (decodeRegWr_wellFormed _ _).2, rfl⟩

theorem regRd (off : BitVec 8) : Statement (.regRd off) :=
  ⟨rfl, rfl, rfl⟩

theorem ibufRd (idx : Word) : Statement (.ibufRd idx) :=
  ⟨rfl, rfl, rfl⟩

theorem ibufWr (idx : Word) (b : Byte) : Statement (.ibufWr idx b) :=
  ⟨rfl, rfl, rfl⟩

theorem obufRd (idx : Word) : Statement (.obufRd idx) :=
  ⟨rfl, rfl, rfl⟩

theorem obufWr (idx : Word) (b : Byte) : Statement (.obufWr idx b) :=
  ⟨rfl, rfl, rfl⟩

theorem reset : Statement .reset :=
  ⟨rfl, rfl, rfl⟩

end Encodes

end Sys2Proof.Laws
end

