-- ==== Sys2Proof/Tests/Slice0.lean ====
section
/-!
SUPPORT. The model's own tests. Expected values are the spec's own: the vectors of 95_test_vectors.md (all with
`BUF_BYTES = 64`) and the examples of the numbered rules; words are written out from the encodings of 30_encoding.md.
The theorems `test_witness_…` show states and operands that meet the hypotheses of an obligation, clause by clause, at
boundary values.
-/
namespace Sys2Proof.Tests
open Sys2Proof.Machine

-- One theorem at a time: many short evaluations side by side need many thread stacks.
set_option Elab.async false

/-! ## Helpers -/

/-- The state an instruction leaves. -/
def after (i : Instr) (s : State) : State :=
  match exec i s with
  | .next t => t
  | .fault _ => s
  | .refused _ => s

theorem after_eq (i : Instr) (s : State) : exec i s = .next (after i s) := by cases i <;> rfl

/-- The state `n` steps leave. -/
def afterRun : Nat → State → State
  | 0, s => s
  | n + 1, s =>
    match step s with
    | .next t => afterRun n t
    | .fault _ => s
    | .refused _ => s

theorem afterRun_eq (n : Nat) (s : State) : core.run n s = .next (afterRun n s) := by
  induction n generalizing s with
  | zero => rfl
  | succ n ih =>
    have h : ∃ t, step s = .next t := by
      unfold step
      split
      · exact ⟨_, rfl⟩
      · exact ⟨_, after_eq _ _⟩
    obtain ⟨t, ht⟩ := h
    rw [core_run_succ, afterRun, ht]
    exact ih t

/-- A buffer that holds `bs` from index `a` up and nothing else. -/
def bytesAt (a : Nat) (bs : List Byte) : Memory := Memory.writeAll [] a bs

/-- The reset state with bytes in IBUF and a region. -/
def st (ibuf : Memory) (off len : Word) : State := { State.reset with ibuf := ibuf, srcOff := off, srcLen := len }

def fIend : List Byte := [0x00, 0x00, 0x00, 0x00, 0x49, 0x45, 0x4E, 0x44, 0xAE, 0x42, 0x60, 0x82]

def fHello : List Byte :=
  [0x00, 0x00, 0x00, 0x05, 0x72, 0x75, 0x53, 0x74, 0x68, 0x65, 0x6C, 0x6C, 0x6F, 0xAE, 0x50, 0x8D, 0x6F]

/-- LENGTH, TYPE, CRC_STORED, CRC_COMPUTED: the "regs" of table 4.1. -/
def regs (s : State) : Word × Word × Word × Word := (s.length, s.typeReg, s.crcStored, s.crcComputed)

/-! ## Well-formedness: a term no transaction encodes is refused -/

/-- 0x00000020 is PARSE's word (R92), so it is no illegal word. -/
theorem test_wellformed_refuses_illegal_with_assigned_word : WellFormed (.illegal 0x00000020) = false := by decide

/-- A write of offset 0x13 reaches TYPE (R65, R224), so it is not ignored. -/
theorem test_wellformed_refuses_ignored_write_of_type : WellFormed (.wrIgnored 0x13 0) = false := by decide

theorem test_wellformed_accepts_the_rest :
    WellFormed (.illegal 0x00000120) = true ∧ WellFormed (.wrIgnored 0xFF 1) = true ∧
      WellFormed (.wrIgnored 0x3F 1) = true := by decide

/-! ## Decoding: every constructor from a word written out -/

/-- R92: RESV in bits [31:8], OPCODE in bits [7:0]. -/
theorem test_decode_command_words :
    decodeCommand 0b00000000000000000000000000000000#32 = .nop ∧
    decodeCommand 0b00000000000000000000000000000001#32 = .crcInit ∧
    decodeCommand 0b00000000000000000000000000000010#32 = .crcAccum ∧
    decodeCommand 0b00000000000000000000000000010000#32 = .validate ∧
    decodeCommand 0b00000000000000000000000000010001#32 = .validateStr ∧
    decodeCommand 0b00000000000000000000000000100000#32 = .parse ∧
    decodeCommand 0b00000000000000000000000000100001#32 = .serialize := by decide

/-- R94, table 5.1: the ends of every unassigned range, and RESV not zero. -/
theorem test_decode_illegal_words :
    ([0x03, 0x0F, 0x12, 0x1F, 0x22, 0xFF, 0x100, 0x120, 0x80000000].all fun v => decodeCommand v == .illegal v) = true := by
  decide

/-- R95: the slot is bits [7:2] of the offset, bits [1:0] are kept and ignored. -/
theorem test_decode_register_writes :
    decode (.regWr 0b00000001#8 0x20) = .wrCmd 0b01 0x20 ∧
    decode (.regWr 0b00001000#8 0x3C) = .wrSrcOff 0b00 0x3C ∧
    decode (.regWr 0b00001110#8 0x08) = .wrSrcLen 0b10 0x08 ∧
    decode (.regWr 0b00010011#8 0x52755374) = .wrType 0b11 0x52755374 ∧
    decode (.regWr 0b00101100#8 0x51BD9F7D) = .wrCrcState 0b00 0x51BD9F7D ∧
    decode (.regWr 0b00110000#8 0x149) = .wrCrcIn8 0b00 0x149 ∧
    decode (.regWr 0b00110111#8 0x49454E44) = .wrCrcIn32 0b11 0x49454E44 := by decide

/-- R224: the nine offsets below 0x40 whose writes are ignored, and both ends of the reserved range. -/
theorem test_decode_ignored_writes :
    ([0x04, 0x14, 0x18, 0x1C, 0x20, 0x24, 0x28, 0x38, 0x3C, 0x3F, 0x40, 0xFC, 0xFF].all fun off =>
      decode (.regWr off 0x12345678) == .wrIgnored off 0x12345678) = true := by decide

/-- R90: the six other kinds of transaction. -/
theorem test_decode_other_transactions :
    decode (.regRd 0x3C) = .regRd 0x3C ∧ decode (.ibufRd 0x3F) = .ibufRd 0x3F ∧
    decode (.ibufWr 0x3F 0xAB) = .ibufWr 0x3F 0xAB ∧ decode (.obufRd 0xFFFFFFFF) = .obufRd 0xFFFFFFFF ∧
    decode (.obufWr 5 0x11) = .obufWr 5 0x11 ∧ decode .reset = .reset := by decide

/-- The opcode table's numbering: 32 bits of a command word, 8 bits of an offset, no bits of RESET. -/
theorem test_decode_table_words :
    decodeTableWord 32 0x20 = some .parse ∧ decodeTableWord 32 0x120 = some (.illegal 0x120) ∧
    decodeTableWord 8 0x30 = some (.wrCrcIn8 0 0) ∧ decodeTableWord 8 0x14 = some (.wrIgnored 0x14 0) ∧
    decodeTableWord 0 0 = some .reset ∧ decodeTableWord 16 0 = none := by decide

/-- R98: `cmd PARSE`, `region 60, 8` and `type "IEND"`. -/
theorem test_host_syntax :
    cmd .parse = [.regWr 0x00 0x00000020] ∧ region 60 8 = [.regWr 0x08 0x3C, .regWr 0x0C 0x08] ∧
    typeCode 0x49 0x45 0x4E 0x44 = [.regWr 0x10 0x49454E44] ∧ crc8 0x49 = [.regWr 0x30 0x49] ∧
    ibw 4 [0x68, 0x65] = [.ibufWr 4 0x68, .ibufWr 5 0x65] ∧ obr 0 2 = [.obufRd 0, .obufRd 1] := by decide

/-! ## Functions -/

/-- Table 2.1, rows 1, 2, 11, 13 and 18. -/
theorem test_flags :
    flagsOf 0x52755374 = 0x00000F3D ∧ flagsOf 0x52757374 = 0x00000F19 ∧ flagsOf 0x405B607B = 0x0000000B ∧
    flagsOf 0xC1C1C1C1 = 0x00000007 ∧ flagsOf 0x68C3A96C = 0x0000090A := by decide +kernel

/-- Table 3.2, rows 1, 6 and 8. -/
theorem test_crc_update :
    crcUpdate 0xFFFFFFFF 0x49 = 0x22FDE946 ∧ crcUpdate 0xFFFFFFFF 0xFF = 0x00FFFFFF ∧
    crcUpdate 0x8B4959FD 0x68 = 0x80EE2E92 := by decide +kernel

/-- Table 3.1, rows 6, 10 and 13. -/
theorem test_crc32 :
    crc32 [0xFF, 0xFF, 0xFF, 0xFF] = 0xFFFFFFFF ∧
    crc32 [0x72, 0x75, 0x53, 0x74, 0x73, 0x65, 0x63, 0x72, 0x65, 0x74] = 0x85ECF212 ∧
    crc32 [0x72, 0x75, 0x53, 0x74, 0x69, 0x65, 0x6C, 0x6C, 0x6F] = 0x9330A4DF := by decide +kernel

/-! ## Commands -/

/-- 5.1: NOP clears the error of 4.1 #10 and leaves the CRC registers. -/
theorem test_nop_clears_an_error :
    let t := after .nop { State.reset with statusCode := 3, statusOp := 0x20, crcStored := 0xAE426083 }
    t.statusWord = 0x00000000 ∧ t.crcStored = 0xAE426083 := by decide

/-- 3.3 #1. -/
theorem test_crcInit :
    let t := after .crcInit { State.reset with crcState := 0x12345678 }
    t.crcState = 0xFFFFFFFF ∧ t.statusWord = 0x00010000 ∧ t.regRead 0x38 = 0 := by decide

/-- 3.3 #3. -/
theorem test_crcAccum_feeds_the_region :
    let t := after .crcAccum (st [(0, 0x61)] 0 1)
    t.crcState = 0x174841BC ∧ t.statusWord = 0x00020000 := by decide +kernel

/-- 3.3 #4. -/
theorem test_crcAccum_bad_region :
    let t := after .crcAccum { st [] 60 5 with crcState := 0x12345678 }
    t.crcState = 0x12345678 ∧ t.statusWord = 0x00020005 := by decide

/-- 2.2 #3. -/
theorem test_validate_reports_byte_two :
    (after .validate { State.reset with typeReg := 0x52753174 }).statusWord = 0x00100401 := by decide

/-- 2.2 #6. -/
theorem test_validate_boundary_letters :
    (after .validate { State.reset with typeReg := 0x415A617A }).statusWord = 0x00100000 := by decide

/-- 2.3 #7: TYPE keeps the bytes of a string that fails. -/
theorem test_validateStr_loads_a_failing_string :
    let t := after .validateStr (st (bytesAt 0 [0x68, 0xC3, 0xA9, 0x6C]) 0 4)
    t.statusWord = 0x00110601 ∧ t.typeReg = 0x68C3A96C := by decide

/-- 2.3 #3: the length comes before the range, and TYPE is as before. -/
theorem test_validateStr_length_first :
    let t := after .validateStr { st (bytesAt 0 [0x52, 0x75]) 0 2 with typeReg := 0x11223344 }
    t.statusWord = 0x00111001 ∧ t.typeReg = 0x11223344 := by decide

/-- 4.1 #11. -/
theorem test_parse_reports_a_flipped_type_bit :
    let t := after .parse (st (bytesAt 0 (fIend.set 4 0x69)) 0 12)
    t.statusWord = 0x00200003 ∧ t.consumed = 0 ∧ regs t = (0, 0x69454E44, 0xAE426082, 0x0E70CFBC) := by decide +kernel

/-- 4.1 #8: 12 + 0xFFFFFFFF does not wrap. -/
theorem test_parse_length_does_not_wrap :
    let t := after .parse (st (bytesAt 0 [0xFF, 0xFF, 0xFF, 0xFF, 0x49, 0x45, 0x4E, 0x44, 0, 0, 0, 0]) 0 12)
    t.statusWord = 0x00200202 ∧ regs t = (0, 0, 0, 0) := by decide +kernel

/-- 4.2 #2. -/
theorem test_serialize_hello :
    let t := after .serialize { st (bytesAt 0 [0x68, 0x65, 0x6C, 0x6C, 0x6F]) 0 5 with typeReg := 0x72755374 }
    t.statusWord = 0x00210000 ∧ t.outLen = 0x11 ∧ t.memRead .obuf 0 17 = fHello ∧
      regs t = (5, 0x72755374, 0xAE508D6F, 0xAE508D6F) := by decide +kernel

/-- 4.2 #7: one byte too large. -/
theorem test_serialize_overflow :
    let t := after .serialize { st [] 0 53 with typeReg := 0x49444154, outLen := 0x11 }
    t.statusWord = 0x00210004 ∧ t.outLen = 0 ∧ t.obuf = [] := by decide

/-- 5.1 #8: RESV wins over a legal opcode. -/
theorem test_illegal_reserved_bits_first : (after (.illegal 0x120) State.reset).statusWord = 0x00200206 := by decide

/-! ## Register transactions -/

/-- 4.1 #3: the PARSE word through CMD, a frame at index 3. -/
theorem test_wrCmd_runs_parse :
    let t := after (.wrCmd 0 0x20) (st (bytesAt 3 fIend) 3 12)
    t.statusWord = 0x00200000 ∧ t.consumed = 0x0C ∧ regs t = (0, 0x49454E44, 0xAE426082, 0xAE426082) := by
  decide +kernel

/-- 5.1 #6. -/
theorem test_wrCmd_unassigned_opcode : (after (.wrCmd 0 0xFF) State.reset).statusWord = 0x00FF0106 := by decide

/-- R27, R28: any value is stored and read back. -/
theorem test_wr_region_registers :
    (after (.wrSrcOff 0 0xFFFFFFFF) State.reset).regRead 0x08 = 0xFFFFFFFF ∧
    (after (.wrSrcLen 0 0x80000001) State.reset).regRead 0x0C = 0x80000001 := by decide

/-- 5.2 #6 and #7. -/
theorem test_wrType_at_offset_0x13 :
    let t := after (decode (.regWr 0x13 0x52755374)) State.reset
    t.regRead 0x10 = 0x52755374 ∧ t.regRead 0x14 = 0x00000F3D := by decide +kernel

/-- 3.3 #10. -/
theorem test_wrCrcState : (after (.wrCrcState 0 0x51BD9F7D) State.reset).regRead 0x38 = 0xAE426082 := by decide

/-- 3.3 #6. -/
theorem test_wrCrcIn8_ignores_high_bits :
    let t := after (.wrCrcIn8 0 0x149) State.reset
    t.crcState = 0x22FDE946 ∧ t.regRead 0x38 = 0xDD0216B9 ∧ t.statusWord = 0 := by decide +kernel

/-- 3.3 #7: bits [31:24] first. -/
theorem test_wrCrcIn32_byte_order : (after (.wrCrcIn32 0 0x49454E44) State.reset).crcState = 0x51BD9F7D := by
  decide +kernel

/-- 5.2 #4, #5, #11. -/
theorem test_wrIgnored :
    after (decode (.regWr 0x18 0x12345678)) State.reset = State.reset ∧
    after (decode (.regWr 0x04 0xFFFFFFFF)) State.reset = State.reset ∧
    after (decode (.regWr 0x38 0)) State.reset = State.reset := by decide

/-- 5.2 #1, #2, #3, #9. -/
theorem test_regRd :
    (after (.regRd 0x3C) State.reset).response = .word 0x00000040 ∧
    (after (.regRd 0x00) State.reset).response = .word 0 ∧ (after (.regRd 0xFC) State.reset).response = .word 0 ∧
    (after (.regRd 0x2C) State.reset).response = .word 0xFFFFFFFF := by decide

/-! ## Buffer transactions and RESET -/

/-- 5.3 #1 and #2. -/
theorem test_ibuf_port :
    (after (.ibufRd 0x3F) (after (.ibufWr 0x3F 0xAB) State.reset)).response = .byte 0xAB ∧
    after (.ibufWr 0x40 0xAB) State.reset = State.reset ∧
    (after (.ibufRd 0x40) State.reset).response = .byte 0x00 := by decide

/-- 5.3 #3 and #4. -/
theorem test_obuf_port :
    (after (.obufRd 0xFFFFFFFF) State.reset).response = .byte 0x00 ∧
    (after (.obufRd 5) (after (.ibufWr 5 0x11) (after (.obufWr 5 0x22) State.reset))).response = .byte 0x22 := by
  decide

/-- 6 #1: registers to their reset values, the buffer kept. -/
theorem test_reset_keeps_the_buffers :
    after .reset { st [(8, 0x69)] 0 17 with statusCode := 3, crcState := 0x51AF7290, length := 5 } =
      { State.reset with ibuf := [(8, 0x69)] } := by decide

/-- The step takes the transaction that stands first. -/
theorem test_step_of_a_table_word :
    step (State.reset.withFetchWord 32 0x10) = .next (after .validate State.reset) := by rfl

/-! ## Witnesses of the obligations' hypotheses -/

theorem test_witness_DecodeOfEncodeIsTheInstruction :
    (WellFormed (.illegal 0x22) = true ∧ (Instr.illegal 0x22).isCommand = true) ∧
    (WellFormed (.wrIgnored 0xFF 1) = true ∧ (Instr.wrIgnored 0xFF 1).isCommand = false) ∧
    (WellFormed (.wrCrcIn32 3 0xFFFFFFFF) = true ∧ (Instr.wrCrcIn32 3 0xFFFFFFFF).isCommand = false) := by decide

theorem test_witness_IllegalWordsOnlyReport :
    decodeCommand 0x22 = .illegal 0x22 ∧ decodeCommand 0x100 = .illegal 0x100 := by decide

theorem test_witness_StepRunsTheDecodedTransaction :
    ({ State.reset with pending := [rd .status, wr .type 1] } : State).pending = rd .status :: [wr .type 1] ∧
      State.reset.pending = [] := by decide

theorem test_witness_TransactionsTakeEffectInIssueOrder :
    ∃ t, core.run [wr .type 1, rd .type].length { State.reset with pending := [wr .type 1, rd .type] } = .next t ∧
      t.response = .word 1 := ⟨_, afterRun_eq _ _, by decide⟩

theorem test_witness_InvariantIsKeptByEveryStep :
    ∃ s s' : State, Inv s ∧ step s = .next s' ∧ s'.statusCode = 2 :=
  ⟨{ st [(63, 0xAB)] 53 11 with pending := cmd .parse }, _,
    ⟨by decide, by decide, by decide, by decide, by decide, by decide, .inl rfl, .inl rfl⟩, rfl, by decide⟩

theorem test_witness_InvariantHoldsAtPowerOn :
    ({ bufBytes := 12, latency := 0 } : Config).legal ∧ ({ bufBytes := 2 ^ 32 - 1, latency := 9 } : Config).legal := by
  decide

theorem test_witness_RegisterReadReturnsTheRegister :
    (∀ r : Reg, (regOffset r ||| 3) &&& 0xFC = regOffset r) ∧ State.reset.config.legal ∧
      0x40 ≤ (0x40#8).toNat ∧ 0x40 ≤ (0xFF#8).toNat :=
  ⟨fun r => by cases r <;> decide, by decide⟩

theorem test_witness_RegisterWriteStoresOrIsIgnored :
    0x03#8 &&& 0xFC = 0x00 ∧ 0x0B#8 &&& 0xFC = 0x08 ∧ 0x0F#8 &&& 0xFC = 0x0C ∧ 0x13#8 &&& 0xFC = 0x10 ∧
    0x2F#8 &&& 0xFC = 0x2C ∧ 0x33#8 &&& 0xFC = 0x30 ∧ 0x37#8 &&& 0xFC = 0x34 ∧
    (0x3F#8 &&& 0xFC ∈ [0x04#8, 0x14, 0x18, 0x1C, 0x20, 0x24, 0x28, 0x38, 0x3C]) ∧ 0x40 ≤ (0x40#8).toNat := by decide

theorem test_witness_EachRegisterHasItsWriters :
    (after (.wrSrcOff 0 1) State.reset).srcOff ≠ State.reset.srcOff ∧
    (after (.wrSrcLen 0 1) State.reset).srcLen ≠ State.reset.srcLen ∧
    (after .validate State.reset).statusCode ≠ State.reset.statusCode ∧
    (after (.wrCmd 0 0x20) (st (bytesAt 0 fHello) 0 17)).typeReg ≠ State.reset.typeReg ∧
    (after .parse (st (bytesAt 0 fHello) 0 17)).length ≠ State.reset.length ∧
    (after .parse (st (bytesAt 0 fHello) 0 17)).consumed ≠ State.reset.consumed ∧
    (after .serialize (st [] 0 0)).outLen ≠ State.reset.outLen ∧
    (after (.wrCrcIn8 0 1) State.reset).crcState ≠ State.reset.crcState ∧
    exec .parse (st (bytesAt 0 fHello) 0 17) = .next (after .parse (st (bytesAt 0 fHello) 0 17)) ∧
    Instr.parse ≠ .reset :=
  ⟨by decide, by decide, by decide, by decide +kernel, by decide +kernel, by decide +kernel, by decide +kernel,
    by decide +kernel, after_eq _ _, by decide⟩

theorem test_witness_the_buffer_ports :
    (63#32).toNat < State.reset.config.bufBytes ∧ State.reset.config.bufBytes ≤ (64#32).toNat := by decide

theorem test_witness_BufferBytesHaveTheirWriters :
    (after (.ibufWr 63 0xAB) (st [(63, 0)] 0 0)).readByte .ibuf 63 ≠ (st [(63, 0)] 0 0).readByte .ibuf 63 ∧
    (after (.obufWr 0 1) { State.reset with obuf := [(0, 0)] }).readByte .obuf 0 ≠ 0 ∧
    (after .serialize { State.reset with obuf := [(11, 0)] }).readByte .obuf 11 ≠ 0 ∧
    ({ State.reset with obuf := [(11, 0)] } : State).readByte .obuf 11 = 0 ∧
    exec .serialize { State.reset with obuf := [(11, 0)] } =
      .next (after .serialize { State.reset with obuf := [(11, 0)] }) :=
  ⟨by decide, by decide, by decide +kernel, by decide, after_eq _ _⟩

theorem test_witness_ValidateStrLoadsAndChecksTheRegion :
    (st [] 61 4).config.bufBytes < (st [] 61 4).srcOff.toNat + (st [] 61 4).srcLen.toNat ∧
    ((st [] 59 5).srcOff.toNat + (st [] 59 5).srcLen.toNat ≤ (st [] 59 5).config.bufBytes ∧
      (st [] 59 5).srcLen.toNat ≠ 4) ∧
    ((st [] 60 4).srcOff.toNat + (st [] 60 4).srcLen.toNat ≤ (st [] 60 4).config.bufBytes ∧
      (st [] 60 4).srcLen.toNat = 4) := by decide

theorem test_witness_ValidIsNotTheVerdictOfValidate :
    exec .validate State.reset = .next (after .validate State.reset) ∧
      ({ State.reset with typeReg := 0x52757374 } : State).typeReg = 0x52757374 := ⟨after_eq _ _, rfl⟩

theorem test_witness_CrcAccumFeedsTheRegion :
    (st [] 60 5).config.bufBytes < (st [] 60 5).srcOff.toNat + (st [] 60 5).srcLen.toNat ∧
    (st [] 64 0).srcOff.toNat + (st [] 64 0).srcLen.toNat ≤ (st [] 64 0).config.bufBytes ∧
    (st [] 55 9).srcOff.toNat + (st [] 55 9).srcLen.toNat ≤ (st [] 55 9).config.bufBytes := by decide

/-- Program P3, lines 3 to 6, with its value of CRC_OUT; the second clause is the same run. -/
theorem test_witness_StreamedSumIsTheCrcOfTheBytesFed :
    exec .crcInit (st (bytesAt 0 fHello) 0 0) = .next (after .crcInit (st (bytesAt 0 fHello) 0 0)) ∧
    (∀ t ∈ crcw 0x72755374 ++ region 8 5 ++ cmd .crcAccum, restartsCrc (decode t) = false) ∧
    (∃ t, core.run 4 { after .crcInit (st (bytesAt 0 fHello) 0 0) with
      pending := crcw 0x72755374 ++ region 8 5 ++ cmd .crcAccum } = .next t ∧ t.regRead 0x38 = 0xAE508D6F) ∧
    (8#32).toNat + (5#32).toNat ≤ (st (bytesAt 0 fHello) 0 0).config.bufBytes ∧
    (∃ t, core.run 5 { st (bytesAt 0 fHello) 0 0 with
      pending := cmd .crcInit ++ crcw 0x72755374 ++ region 8 5 ++ cmd .crcAccum } = .next t) :=
  ⟨after_eq _ _, by decide, ⟨_, afterRun_eq _ _, by decide +kernel⟩, by decide, ⟨_, afterRun_eq _ _⟩⟩

theorem test_witness_OneFlippedBitChangesTheCrc : 16 < fHello.length ∧ 7 < 8 := by decide

/-- The five outcomes of PARSE: 54 + 11 > 64; 11 bytes; 16 bytes of a 17-byte frame; a wrong CRC byte; the frame. -/
theorem test_witness_ParseDecodesTheFrameOfTheRegion :
    (st [] 54 11).config.bufBytes < (st [] 54 11).srcOff.toNat + (st [] 54 11).srcLen.toNat ∧
    ((st [] 53 11).srcOff.toNat + (st [] 53 11).srcLen.toNat ≤ (st [] 53 11).config.bufBytes ∧
      (st [] 53 11).srcLen.toNat < 12) ∧
    (12 ≤ (st (bytesAt 0 fHello) 0 16).srcLen.toNat ∧ (st (bytesAt 0 fHello) 0 16).srcLen.toNat <
      12 + ((st (bytesAt 0 fHello) 0 16).readBE32 .ibuf 0).toNat) ∧
    (12 + ((st (bytesAt 0 (fHello.set 16 0x6E)) 0 17).readBE32 .ibuf 0).toNat ≤ 17 ∧
      (st (bytesAt 0 (fHello.set 16 0x6E)) 0 17).readBE32 .ibuf 13 ≠
        crc32 ((List.range 9).map fun k => (st (bytesAt 0 (fHello.set 16 0x6E)) 0 17).readByte .ibuf (4 + k))) ∧
    (12 + ((st (bytesAt 0 fHello) 0 17).readBE32 .ibuf 0).toNat ≤ 17 ∧
      (st (bytesAt 0 fHello) 0 17).readBE32 .ibuf 13 =
        crc32 ((List.range 9).map fun k => (st (bytesAt 0 fHello) 0 17).readByte .ibuf (4 + k))) := by
  decide +kernel

/-- A frame that ends with the last byte of IBUF. -/
theorem test_witness_ParseAcceptsEveryFrame :
    let s := st (bytesAt 47 fHello) 47 17
    let p : List Byte := [0x68, 0x65, 0x6C, 0x6C, 0x6F]
    s.srcOff.toNat + s.srcLen.toNat ≤ s.config.bufBytes ∧ 12 + p.length ≤ s.srcLen.toNat ∧
      ∀ k, k < 12 + p.length → (frame 0x72755374 p)[k]? = some (s.readByte .ibuf (s.srcOff.toNat + k)) := by
  decide +kernel

theorem test_witness_ParseConsumesTheFrameOrNothing :
    (exec .parse (st (bytesAt 0 fHello) 0 17) = .next (after .parse (st (bytesAt 0 fHello) 0 17)) ∧
      (after .parse (st (bytesAt 0 fHello) 0 17)).statusCode = 0) ∧
    (exec .parse (st (bytesAt 0 fHello) 0 16) = .next (after .parse (st (bytesAt 0 fHello) 0 16)) ∧
      (after .parse (st (bytesAt 0 fHello) 0 16)).statusCode ≠ 0) :=
  ⟨⟨after_eq _ _, by decide +kernel⟩, after_eq _ _, by decide +kernel⟩

/-- `fHello` at 0 with bit `k` of byte `j` flipped. -/
def flipped (j k : Nat) : State :=
  { st (bytesAt 0 fHello) 0 17 with
    ibuf := Memory.write (bytesAt 0 fHello) j ((st (bytesAt 0 fHello) 0 17).readByte .ibuf j ^^^ (1#8 <<< k)) }

theorem flipped_same (j k i : Nat) (h : i ≠ j) :
    (flipped j k).readByte .ibuf i = (st (bytesAt 0 fHello) 0 17).readByte .ibuf i := by
  show Memory.read (Memory.write (bytesAt 0 fHello) j _) _ _ i = Memory.read (bytesAt 0 fHello) _ _ i
  simp only [Memory.read, Memory.get?_write_other _ _ _ _ h]
  rfl

/-- The first and the last bit that may be flipped. -/
theorem test_witness_ParseReportsEveryFlippedBit :
    let s := st (bytesAt 0 fHello) 0 17
    exec .parse s = .next (after .parse s) ∧ (after .parse s).statusCode = 0 ∧
    (∀ j ∈ [4, 16], ∀ k ∈ [0, 7], flipped j k = { s with ibuf := (flipped j k).ibuf } ∧ s.srcOff.toNat + 4 ≤ j ∧
      j < s.srcOff.toNat + 12 + (after .parse s).length.toNat ∧
      (flipped j k).readByte .ibuf j = s.readByte .ibuf j ^^^ (1#8 <<< k)) ∧
    ∀ j k i, i ≠ j → (flipped j k).readByte .ibuf i = s.readByte .ibuf i :=
  ⟨after_eq _ _, by decide +kernel, by decide +kernel, flipped_same⟩

/-- 61 + 4 > 64; 53 payload bytes overflow; 52 fill OBUF exactly (4.2 #6 to #8). -/
theorem test_witness_SerializeBuildsTheFrame :
    (st [] 61 4).config.bufBytes < (st [] 61 4).srcOff.toNat + (st [] 61 4).srcLen.toNat ∧
    ((st [] 11 53).srcOff.toNat + (st [] 11 53).srcLen.toNat ≤ (st [] 11 53).config.bufBytes ∧
      (st [] 11 53).config.bufBytes < 12 + (st [] 11 53).srcLen.toNat) ∧
    ((st [] 12 52).srcOff.toNat + (st [] 12 52).srcLen.toNat ≤ (st [] 12 52).config.bufBytes ∧
      12 + (st [] 12 52).srcLen.toNat ≤ (st [] 12 52).config.bufBytes) := by decide

theorem test_witness_LengthIsThePayloadSize :
    (exec .serialize (st [] 0 0) = .next (after .serialize (st [] 0 0)) ∧
      (after .serialize (st [] 0 0)).statusCode = 0 ∧ (st [] 0 0).config.legal) ∧
    (exec .parse (st (bytesAt 0 fHello) 0 17) = .next (after .parse (st (bytesAt 0 fHello) 0 17)) ∧
      (after .parse (st (bytesAt 0 fHello) 0 17)).statusCode = 0) :=
  ⟨⟨after_eq _ _, by decide +kernel, by decide⟩, after_eq _ _, by decide +kernel⟩

/-- The frame of "hello" copied to the last index where it fits. -/
theorem test_witness_ParseOfSerializeIsTheChunk :
    let s : State := { st (bytesAt 0 [0x68, 0x65, 0x6C, 0x6C, 0x6F]) 0 5 with typeReg := 0x72755374 }
    let s1 := after .serialize s
    let s2 : State := { s1 with srcOff := BitVec.ofNat 32 47, srcLen := s1.outLen, ibuf := bytesAt 47 fHello }
    s.config.legal ∧ exec .serialize s = .next s1 ∧ s1.statusCode = 0 ∧ 47 + s1.outLen.toNat ≤ s.config.bufBytes ∧
    s2 = { s1 with srcOff := BitVec.ofNat 32 47, srcLen := s1.outLen, ibuf := s2.ibuf } ∧
    ∀ k, k < s1.outLen.toNat → s2.readByte .ibuf (47 + k) = s1.readByte .obuf k :=
  ⟨by decide, after_eq _ _, by decide +kernel, by decide +kernel, rfl, by decide +kernel⟩

theorem test_witness_SerializeOfParseIsTheFrame :
    let s := st (bytesAt 47 fHello) 47 17
    s.config.legal ∧ exec .parse s = .next (after .parse s) ∧ (after .parse s).statusCode = 0 :=
  ⟨by decide, after_eq _ _, by decide +kernel⟩

/-- One run of each command, a SERIALIZE that fails and one that ends with OK among them. -/
theorem test_witness_CommandsWriteOnlyTheirOperands :
    (∀ i ∈ [Instr.nop, .validate, .illegal 3, .crcInit, .crcAccum, .validateStr, .parse, .serialize],
      i.isCommand = true ∧ exec i State.reset = .next (after i State.reset)) ∧
    (after .serialize (st [] 0 53)).statusCode ≠ 0 ∧
    ((after .serialize (st [] 0 0)).statusCode = 0 ∧ 12 + (st [] 0 0).srcLen.toNat ≤ 12) :=
  ⟨fun i hi => ⟨by revert i hi; decide, after_eq _ _⟩, by decide +kernel, by decide +kernel, by decide⟩

/-- IBUF and the draw differ outside the region `[0, 17)`, at its first index outside. -/
theorem test_witness_CommandsReadIbufOnlyInTheirRegion :
    let s := st (bytesAt 0 fHello) 0 17
    let s' : State := { s with ibuf := Memory.write s.ibuf 17 0xFF, powerOnDraw := 1 }
    Instr.parse.isCommand = true ∧ s' = { s with ibuf := s'.ibuf, powerOnDraw := s'.powerOnDraw } ∧
    s.srcOff.toNat + s.srcLen.toNat ≤ s.config.bufBytes ∧
    (∀ k, k < s.srcLen.toNat →
      s'.readByte .ibuf (s.srcOff.toNat + k) = s.readByte .ibuf (s.srcOff.toNat + k)) ∧
    exec .parse s = .next (after .parse s) :=
  ⟨rfl, rfl, by decide, by decide +kernel, after_eq _ _⟩

/-- The same with index 17 inside the region of 20 bytes and outside the frame of 17. -/
theorem test_witness_ParseReadsNoFurtherThanTheFrame :
    let s := st (bytesAt 0 fHello) 0 20
    let s' : State := { s with ibuf := Memory.write s.ibuf 17 0xFF, powerOnDraw := 1 }
    s' = { s with ibuf := s'.ibuf, powerOnDraw := s'.powerOnDraw } ∧
    s.srcOff.toNat + s.srcLen.toNat ≤ s.config.bufBytes ∧ 12 ≤ s.srcLen.toNat ∧
    (∀ k, k < 4 → s'.readByte .ibuf (s.srcOff.toNat + k) = s.readByte .ibuf (s.srcOff.toNat + k)) ∧
    12 + (s.readBE32 .ibuf s.srcOff.toNat).toNat ≤ s.srcLen.toNat ∧
    (∀ k, k < 12 + (s.readBE32 .ibuf s.srcOff.toNat).toNat →
      s'.readByte .ibuf (s.srcOff.toNat + k) = s.readByte .ibuf (s.srcOff.toNat + k)) ∧
    exec .parse s = .next (after .parse s) :=
  ⟨rfl, by decide, by decide, by decide +kernel, by decide +kernel, by decide +kernel, after_eq _ _⟩

theorem test_witness_LatencyIsNeverRead :
    ∃ t, step { State.reset with pending := cmd .validate } = .next t ∧ t.statusCode = 1 := ⟨_, rfl, by decide⟩

theorem test_witness_ParametersAndDrawNeverChange :
    (∃ t, step { State.reset with pending := [.ibufWr 0 1] } = .next t ∧ t.ibuf = [(0, 1)]) ∧
      exec .reset State.reset = .next (after .reset State.reset) := ⟨⟨_, rfl, by decide⟩, after_eq _ _⟩

/-- A sum in progress (3.2 #1: the byte 0x49 fed), then 0x45 (3.2 #2), and each of the other cases. -/
theorem test_witness_CrcStateStaysTheSumOfTheBytesFed :
    let s : State := { State.reset with crcState := 0x22FDE946 }
    s.crcState = crcFeed 0xFFFFFFFF [0x49] ∧
    (∃ t, step { s with pending := crc8 0x45 } = .next t ∧ t.crcState = 0x992BAC53) ∧
    restartsCrc (decode (.regWr 0x30 0x45)) = false ∧
    (∃ t, step { s with pending := [resetLine] } = .next t ∧ decode resetLine = .reset) ∧
    (∃ t, step { s with pending := cmd .crcInit } = .next t ∧ decode (.regWr 0x00 1) = .wrCmd 0 0x00000001) ∧
    (∃ t, step { s with pending := [wr .crcState 0x51BD9F7D] } = .next t ∧ t.crcState = 0x51BD9F7D ∧
      decode (.regWr 0x2C 0x51BD9F7D) = .wrCrcState 0 0x51BD9F7D) ∧
    (∃ t, step s = .next t ∧ s.pending = []) :=
  ⟨by decide +kernel, ⟨_, rfl, by decide +kernel⟩, by decide, ⟨_, rfl, by decide⟩, ⟨_, rfl, by decide⟩,
    ⟨_, rfl, by decide⟩, _, rfl, rfl⟩

end Sys2Proof.Tests
end

section
/-!
PROOFS. One step of the machine: what a step runs (O6), the model's own fields that nothing changes (O46), and the
invariant that every step keeps (O10).
-/
namespace Sys2Proof.Machine

/-! ## What a step runs -/

theorem step_of_pending {s : State} {t : Txn} {rest : List Txn} (h : s.pending = t :: rest) :
    step s = exec (decode t) (s.accept rest) := by
  simp [step, (State.fetch_some s (s.accept rest) t).2 ⟨rest, h, rfl⟩]

theorem step_of_idle {s : State} (h : s.pending = []) : step s = .next s := by
  simp [step, (State.fetch_none s).2 h]

/-- All a step can do: nothing, or the instruction of the oldest transaction (R7, R8, R72). -/
theorem step_next_cases {s s' : State} (h : step s = .next s') :
    s' = s ∨ ∃ t rest, exec (decode t) (s.accept rest) = .next s' := by
  cases hp : s.pending with
  | nil => exact .inl (Host.Outcome.next.inj ((step_of_idle hp).symm.trans h)).symm
  | cons t rest => exact .inr ⟨t, rest, (step_of_pending hp).symm.trans h⟩

/-- Settles O6: both cases of `State.fetch`. -/
theorem stepRunsTheDecodedTransaction : Obligations.StepRunsTheDecodedTransaction :=
  ⟨fun _ _ _ => step_of_pending, fun _ => step_of_idle⟩

/-! ## The model's own fields -/

/-- The fields of log entries 1, 2 and 3 that no instruction writes: parameters, draw and pending transactions. -/
def State.ownFields (s : State) : Config × Nat × List Txn := (s.config, s.powerOnDraw, s.pending)

theorem State.ownFields_eq_iff (s t : State) :
    t.ownFields = s.ownFields ↔
      t.config = s.config ∧ t.powerOnDraw = s.powerOnDraw ∧ t.pending = s.pending := by
  simp [State.ownFields]

@[simp] theorem State.setOp_ownFields (s : State) (op : BitVec 8) : (s.setOp op).ownFields = s.ownFields := rfl

@[simp] theorem State.raise_ownFields (s : State) (code : Code) (detail : Byte) :
    (s.raise code detail).ownFields = s.ownFields := rfl

@[simp] theorem State.finish_ownFields (s : State) : s.finish.ownFields = s.ownFields := rfl

@[simp] theorem State.hostWrite_ownFields (s : State) (b : Buffer) (idx : Word) (v : Byte) :
    (s.hostWrite b idx v).ownFields = s.ownFields := by
  unfold State.hostWrite
  split
  · simp [State.ownFields]
  · rfl

@[simp] theorem runCrcInit_ownFields (s : State) : (runCrcInit s).ownFields = s.ownFields := rfl

@[simp] theorem runCrcAccum_ownFields (s : State) : (runCrcAccum s).ownFields = s.ownFields := by
  obtain ⟨-, h⟩ | ⟨-, h⟩ := runCrcAccum_cases s <;> rw [h] <;> rfl

@[simp] theorem runValidate_ownFields (s : State) : (runValidate s).ownFields = s.ownFields := by
  obtain ⟨-, h⟩ | ⟨-, h⟩ := runValidate_cases s <;> rw [h] <;> rfl

@[simp] theorem runValidateStr_ownFields (s : State) : (runValidateStr s).ownFields = s.ownFields := by
  obtain ⟨-, h⟩ | ⟨-, -, h⟩ | ⟨-, -, h⟩ := runValidateStr_cases s <;> rw [h]
  · rfl
  · rfl
  · exact runValidate_ownFields _

@[simp] theorem parseBody_ownFields (len : Nat) (s : State) : (parseBody len s).ownFields = s.ownFields := by
  rw [parseBody_eq]
  split <;> rfl

@[simp] theorem runParse_ownFields (s : State) : (runParse s).ownFields = s.ownFields := by
  obtain ⟨-, h⟩ | ⟨-, -, h⟩ | ⟨-, -, -, h⟩ | ⟨-, -, h⟩ := runParse_cases s <;> rw [h]
  · rfl
  · rfl
  · rfl
  · exact parseBody_ownFields _ _

@[simp] theorem runSerialize_ownFields (s : State) : (runSerialize s).ownFields = s.ownFields := by
  obtain ⟨-, h⟩ | ⟨-, -, h⟩ | ⟨-, -, h⟩ := runSerialize_cases s <;> rw [h]
  · rfl
  · rfl
  · rw [serializeBody_eq]; rfl

@[simp] theorem runIllegal_ownFields (d : Byte) (s : State) : (runIllegal d s).ownFields = s.ownFields := rfl

@[simp] theorem runOpcode_ownFields (op : BitVec 8) (s : State) : (runOpcode op s).ownFields = s.ownFields := by
  unfold runOpcode
  split_ifs <;> simp [runNop]

@[simp] theorem runCommand_ownFields (v : Word) (s : State) : (runCommand v s).ownFields = s.ownFields := by
  unfold runCommand
  split_ifs <;> simp

theorem exec_ownFields {i : Instr} {s t : State} (h : exec i s = .next t) : t.ownFields = s.ownFields := by
  cases i <;> obtain rfl := Host.Outcome.next.inj h
  case crcAccum => exact runCrcAccum_ownFields _
  case validate => exact runValidate_ownFields _
  case validateStr => exact runValidateStr_ownFields _
  case parse => exact runParse_ownFields _
  case serialize => exact runSerialize_ownFields _
  case wrCmd v => exact runCommand_ownFields v s
  case ibufWr idx b => exact State.hostWrite_ownFields s .ibuf idx b
  case obufWr idx b => exact State.hostWrite_ownFields s .obuf idx b
  all_goals rfl

/-- Settles O46: a step that takes a transaction runs an instruction, and no instruction writes the model's own
fields. -/
theorem parametersAndDrawNeverChange : Obligations.ParametersAndDrawNeverChange := by
  refine ⟨fun s t h => ?_, fun i s t h => ((State.ownFields_eq_iff s t).1 (exec_ownFields h)).2.2⟩
  obtain rfl | ⟨_, rest, hx⟩ := step_next_cases h
  · exact ⟨rfl, rfl⟩
  · obtain ⟨hconfig, hdraw, -⟩ := (State.ownFields_eq_iff _ t).1 (exec_ownFields hx)
    exact ⟨hconfig, hdraw⟩

/-! ## The invariant without its STATUS clause

Within a command STATUS.OP is written before CODE and DETAIL (R220), so the STATUS clause of `Inv` need not hold until
the command ends in `raise` or `finish`; the other clauses hold throughout. -/

/-- The clauses of `Inv` that are not about STATUS. -/
structure DataInv (s : State) : Prop where
  legal : s.config.legal
  ibufWf : Memory.wf s.ibuf
  obufWf : Memory.wf s.obuf
  ibufWithin : Memory.within s.ibuf s.config.bufBytes
  obufWithin : Memory.within s.obuf s.config.bufBytes
  consumed : s.consumed = 0 ∨ (12 ≤ s.consumed.toNat ∧ s.consumed.toNat ≤ s.config.bufBytes)
  outLen : s.outLen = 0 ∨ (12 ≤ s.outLen.toNat ∧ s.outLen.toNat ≤ s.config.bufBytes)

theorem inv_iff (s : State) :
    Inv s ↔ DataInv s ∧ statusLegal s.statusCode s.statusDetail s.statusOp = true :=
  ⟨fun h => ⟨{ h with }, h.status⟩, fun ⟨hd, hs⟩ => { hd with status := hs }⟩

theorem DataInv.setOp {s : State} (hd : DataInv s) (op : BitVec 8) : DataInv (s.setOp op) := { hd with }

/-- A command that ends in `raise` establishes the invariant where the STATUS it reports is legal. -/
theorem DataInv.inv_raise {s : State} (hd : DataInv s) {code : Code} {detail : Byte}
    (hs : statusLegal code.bits detail s.statusOp = true) : Inv (s.raise code detail) :=
  (inv_iff _).2 ⟨{ hd with }, hs⟩

/-- A command that ends with OK establishes the invariant where its OPCODE is assigned. -/
theorem DataInv.inv_finish {s : State} (hd : DataInv s) (hop : assignedOpcodes.contains s.statusOp = true) :
    Inv s.finish :=
  hd.inv_raise (by simpa [statusLegal, Code.bits] using hop)

theorem DataInv.setMem {s : State} (hd : DataInv s) (b : Buffer) {m : Memory} (hw : Memory.wf m)
    (hn : Memory.within m s.config.bufBytes) : DataInv (s.setMem b m) := by
  cases b
  · exact { hd with ibufWf := hw, ibufWithin := hn }
  · exact { hd with obufWf := hw, obufWithin := hn }

theorem DataInv.mem {s : State} (hd : DataInv s) (b : Buffer) :
    Memory.wf (s.mem b) ∧ Memory.within (s.mem b) s.config.bufBytes := by
  cases b
  · exact ⟨hd.ibufWf, hd.ibufWithin⟩
  · exact ⟨hd.obufWf, hd.obufWithin⟩

/-- The size of a frame that fits a buffer does not wrap in its 32-bit register (R34, R35, R180). -/
theorem frameSize_fits {n b : Nat} (h : 12 + n ≤ b) (hb : b ≤ 2 ^ 32 - 1) :
    BitVec.ofNat 32 (12 + n) = 0 ∨
      (12 ≤ (BitVec.ofNat 32 (12 + n)).toNat ∧ (BitVec.ofNat 32 (12 + n)).toNat ≤ b) := by
  rw [BitVec.toNat_ofNat, Nat.mod_eq_of_lt (by omega)]
  omega

/-! ## Every command ends in the invariant -/

theorem runCrcAccum_inv {s : State} (hd : DataInv s) (hop : s.statusOp = 0x02) : Inv (runCrcAccum s) := by
  obtain ⟨-, h⟩ | ⟨-, h⟩ := runCrcAccum_cases s <;> rw [h]
  · exact hd.inv_raise (by rw [hop]; decide)
  · exact DataInv.inv_finish { hd with } (by rw [hop]; decide)

/-- A mask of R123 that is not zero is a legal DETAIL of INVALID_TYPE_CODE (R25). -/
theorem statusLegal_typeMask (t : Word) {op : BitVec 8} (hop : op = 0x10 ∨ op = 0x11) (hm : typeMask t ≠ 0) :
    statusLegal Code.invalidTypeCode.bits (typeMask t) op = true := by
  have hpos : 1 ≤ (typeMask t).toNat := Nat.one_le_iff_ne_zero.2 fun h => hm (BitVec.eq_of_toNat_eq h)
  have hle : (typeMask t).toNat ≤ 15 := rangeMask_le _ _ _ _
  obtain rfl | rfl := hop <;> simp [statusLegal, Code.bits, hpos, hle]

theorem runValidate_inv {s : State} (hd : DataInv s) (hop : s.statusOp = 0x10 ∨ s.statusOp = 0x11) :
    Inv (runValidate s) := by
  obtain ⟨-, h⟩ | ⟨hm, h⟩ := runValidate_cases s <;> rw [h]
  · exact hd.inv_finish (by obtain hop | hop := hop <;> rw [hop] <;> decide)
  · exact hd.inv_raise (statusLegal_typeMask _ hop hm)

theorem runValidateStr_inv {s : State} (hd : DataInv s) (hop : s.statusOp = 0x11) : Inv (runValidateStr s) := by
  obtain ⟨-, h⟩ | ⟨-, -, h⟩ | ⟨-, -, h⟩ := runValidateStr_cases s <;> rw [h]
  · exact hd.inv_raise (by rw [hop]; decide)
  · exact hd.inv_raise (by rw [hop]; decide)
  · exact runValidate_inv { hd with } (.inr hop)

theorem parseBody_inv {s : State} (hd : DataInv s) (hop : s.statusOp = 0x20) {len : Nat}
    (hlen : 12 + len ≤ s.config.bufBytes) : Inv (parseBody len s) := by
  rw [parseBody_eq]
  split
  · exact DataInv.inv_finish { hd with consumed := frameSize_fits hlen hd.legal.2 } (by rw [hop]; decide)
  · apply DataInv.inv_raise
    · exact { hd with }
    · rw [hop]; decide

theorem runParse_inv {s : State} (hd : DataInv s) (hop : s.statusOp = 0x20) : Inv (runParse s) := by
  have hd0 : DataInv { s with consumed := 0 } := { hd with consumed := .inl rfl }
  obtain ⟨-, h⟩ | ⟨-, -, h⟩ | ⟨-, -, -, h⟩ | ⟨hreg, hlen, h⟩ := runParse_cases s <;> rw [h]
  · exact hd0.inv_raise (by rw [hop]; decide)
  · exact hd0.inv_raise (by rw [hop]; decide)
  · exact hd0.inv_raise (by rw [hop]; decide)
  · have hfit := (State.regionBad_eq_false s).1 hreg
    exact parseBody_inv hd0 hop (by simp only; omega)

theorem serializeBody_inv {s : State} (hd : DataInv s) (hop : s.statusOp = 0x21)
    (hlen : 12 + s.srcLen.toNat ≤ s.config.bufBytes) : Inv (serializeBody s) := by
  rw [serializeBody_eq]
  have hframe : 0 + (frame s.typeReg s.region).length ≤ s.config.bufBytes := by
    simpa [frame_length] using hlen
  exact DataInv.inv_finish
    { hd with
      obufWf := Memory.wf_writeAll _ _ _ hd.obufWf
      obufWithin := Memory.within_writeAll _ _ _ _ hd.obufWithin hframe
      outLen := frameSize_fits hlen hd.legal.2 } (by rw [hop]; decide)

theorem runSerialize_inv {s : State} (hd : DataInv s) (hop : s.statusOp = 0x21) : Inv (runSerialize s) := by
  have hd0 : DataInv { s with outLen := 0 } := { hd with outLen := .inl rfl }
  obtain ⟨-, h⟩ | ⟨-, -, h⟩ | ⟨-, hlen, h⟩ := runSerialize_cases s <;> rw [h]
  · exact hd0.inv_raise (by rw [hop]; decide)
  · exact hd0.inv_raise (by rw [hop]; decide)
  · exact serializeBody_inv hd0 hop hlen

/-- The dispatch of R220 in a state whose STATUS.OP is already the OPCODE. -/
theorem runOpcode_inv {s : State} (hd : DataInv s) : Inv (runOpcode s.statusOp s) := by
  unfold runOpcode
  split_ifs with hnop hinit haccum hval hvalStr hparse hser
  · exact hd.inv_finish (by rw [hnop]; decide)
  · exact DataInv.inv_finish { hd with } (by rw [hinit]; decide)
  · exact runCrcAccum_inv hd haccum
  · exact runValidate_inv hd (.inl hval)
  · exact runValidateStr_inv hd hvalStr
  · exact runParse_inv hd hparse
  · exact runSerialize_inv hd hser
  · exact hd.inv_raise (by simp_all [statusLegal, Code.bits, assignedOpcodes])

theorem runCommand_inv {s : State} (hd : DataInv s) (v : Word) : Inv (runCommand v s) := by
  unfold runCommand
  split_ifs
  · exact (hd.setOp _).inv_raise (by simp [statusLegal, Code.bits])
  · exact runOpcode_inv (hd.setOp _)

/-! ## Every transaction keeps the invariant -/

theorem Inv.accept {s : State} (hi : Inv s) (rest : List Txn) : Inv (s.accept rest) := { hi with }

theorem Inv.hostWrite {s : State} (hi : Inv s) (b : Buffer) (idx : Word) (v : Byte) :
    Inv (s.hostWrite b idx v) := by
  obtain ⟨hd, hs⟩ := (inv_iff s).1 hi
  obtain ⟨hwf, hwithin⟩ := hd.mem b
  unfold State.hostWrite
  split
  · rename_i hidx
    exact (inv_iff _).2
      ⟨hd.setMem b (Memory.wf_write _ _ _ hwf) (Memory.within_write _ _ _ _ hwithin hidx), by simpa using hs⟩
  · exact hi

theorem Inv.resetRegisters {s : State} (hi : Inv s) : Inv s.resetRegisters :=
  { hi with status := by simp [statusLegal, assignedOpcodes], consumed := .inl rfl, outLen := .inl rfl }

theorem Inv.exec_decodeRegWr {s s' : State} (hi : Inv s) {off : BitVec 8} {data : Word}
    (h : exec (decodeRegWr off data) s = .next s') : Inv s' := by
  unfold decodeRegWr at h
  split_ifs at h <;> obtain rfl := Host.Outcome.next.inj h
  · exact runCommand_inv ((inv_iff s).1 hi).1 data
  all_goals exact { hi with }

theorem Inv.exec_decode {s s' : State} (hi : Inv s) {t : Txn} (h : exec (decode t) s = .next s') : Inv s' := by
  cases t with
  | regWr off data => exact hi.exec_decodeRegWr h
  | regRd off | ibufRd idx | obufRd idx =>
    obtain rfl := Host.Outcome.next.inj h
    exact { hi with }
  | ibufWr idx b | obufWr idx b =>
    obtain rfl := Host.Outcome.next.inj h
    exact hi.hostWrite _ idx b
  | reset =>
    obtain rfl := Host.Outcome.next.inj h
    exact hi.resetRegisters

/-- Settles O10: the transaction a step takes keeps the invariant, and a step with none changes nothing. -/
theorem invariantIsKeptByEveryStep : Obligations.InvariantIsKeptByEveryStep := by
  intro s s' hi h
  obtain rfl | ⟨t, rest, hx⟩ := step_next_cases h
  · exact hi
  · exact (hi.accept rest).exec_decode hx

end Sys2Proof.Machine
end

section
/-!
PROOFS. The registers of the block: which instruction can write each (O18), what PARSE leaves in CONSUMED (O35), and
the plain stores with their reads through the machine (O16, O17).
-/
namespace Sys2Proof.Machine

/-! ## What the plain writes and the register read do -/

@[simp] theorem exec_wrSrcOff (low : BitVec 2) (v : Word) (s : State) :
    exec (.wrSrcOff low v) s = .next { s with srcOff := v } := rfl

@[simp] theorem exec_wrSrcLen (low : BitVec 2) (v : Word) (s : State) :
    exec (.wrSrcLen low v) s = .next { s with srcLen := v } := rfl

@[simp] theorem exec_wrType (low : BitVec 2) (v : Word) (s : State) :
    exec (.wrType low v) s = .next { s with typeReg := v } := rfl

@[simp] theorem exec_wrCrcState (low : BitVec 2) (v : Word) (s : State) :
    exec (.wrCrcState low v) s = .next { s with crcState := v } := rfl

@[simp] theorem exec_wrIgnored (off : BitVec 8) (v : Word) (s : State) :
    exec (.wrIgnored off v) s = .next s := rfl

@[simp] theorem exec_regRd (off : BitVec 8) (s : State) :
    exec (.regRd off) s = .next (s.respond (.word (s.regRead off))) := rfl

/-- Settles O16: each of the four is the answer its arm of `exec` gives. -/
theorem plainRegisterWritesStoreTheValue : Obligations.PlainRegisterWritesStoreTheValue :=
  fun low off v s => ⟨exec_wrSrcOff low v s, exec_wrSrcLen low v s, exec_wrType low v s, exec_wrIgnored off v s⟩

/-! ## A write and a read through the machine -/

/-- Two transactions, a write to `w` that leads to `t` and a read of `r`: the host gets what `r` holds in `t`. -/
theorem run_write_read {s t : State} {w r : Reg} {v : Word}
    (hw : exec (decode (wr w v)) (s.accept [rd r]) = .next t) :
    ∃ u, core.run 2 { s with pending := [wr w v, rd r] } = .next u ∧
      u.response = .word (t.regRead (regOffset r)) := by
  have hpending : t.pending = [rd r] := ((State.ownFields_eq_iff _ _).1 (exec_ownFields hw)).2.2
  have hwrite : step { s with pending := [wr w v, rd r] } = .next t := (step_of_pending rfl).trans hw
  have hread : step t = .next ((t.accept []).respond (.word (t.regRead (regOffset r)))) :=
    (step_of_pending hpending).trans (exec_regRd _ _)
  refine ⟨(t.accept []).respond (.word (t.regRead (regOffset r))), ?_, rfl⟩
  rw [core_run_succ, hwrite]
  dsimp only
  rw [core_run_succ, hread]
  rfl

/-- Settles O17: the state after each write, and the register slot each read selects. -/
theorem writtenRegisterReadsBack : Obligations.WrittenRegisterReadsBack := by
  intro v s
  exact ⟨run_write_read (w := .srcOff) (exec_wrSrcOff 0 v _), run_write_read (w := .srcLen) (exec_wrSrcLen 0 v _),
    run_write_read (w := .type) (exec_wrType 0 v _), run_write_read (w := .crcState) (exec_wrCrcState 0 v _),
    run_write_read (w := .crcState) (exec_wrCrcState 0 v _)⟩

/-! ## A write to CMD runs the command of its word -/

theorem exec_illegal (v : Word) (s : State) :
    exec (.illegal v) s = .next
      (runIllegal (if v.extractLsb' 8 24 ≠ 0 then 0x02 else 0x01) (s.setOp (v.extractLsb' 0 8))) := rfl

/-- Every word with RESV ≠ 0 encodes no command: the seven of R92 have RESV = 0. -/
theorem decodeCommand_of_resv_ne_zero {v : Word} (h : v.extractLsb' 8 24 ≠ 0) : decodeCommand v = .illegal v := by
  unfold decodeCommand
  split_ifs
  case neg => rfl
  all_goals
    subst v
    exact absurd (by decide) h

/-- A word with RESV = 0 is its OPCODE, extended by zeros. -/
theorem eq_setWidth_of_resv_eq_zero {v : Word} (h : v.extractLsb' 8 24 = 0) :
    v = (v.extractLsb' 0 8).setWidth 32 := by
  have hn := congrArg BitVec.toNat h
  apply BitVec.eq_of_toNat_eq
  simp only [BitVec.extractLsb'_toNat, BitVec.toNat_setWidth, BitVec.ofNat_eq_ofNat, BitVec.toNat_ofNat,
    Nat.shiftRight_eq_div_pow] at hn ⊢
  omega

@[simp] theorem opcode_setWidth (op : BitVec 8) : (op.setWidth 32).extractLsb' 0 8 = op := by
  apply BitVec.eq_of_toNat_eq
  simp [BitVec.extractLsb'_toNat, op.isLt]

@[simp] theorem resv_setWidth (op : BitVec 8) : (op.setWidth 32).extractLsb' 8 24 = 0 := by
  have hop : op.toNat < 2 ^ 8 := op.isLt
  apply BitVec.eq_of_toNat_eq
  simp only [BitVec.extractLsb'_toNat, BitVec.toNat_setWidth, BitVec.ofNat_eq_ofNat, BitVec.toNat_ofNat,
    Nat.shiftRight_eq_div_pow]
  omega

/-- The dispatch of R220 by OPCODE agrees with the full match of R92 on a word with RESV = 0. -/
theorem runOpcode_eq_exec_decodeCommand (op : BitVec 8) (s : State) :
    .next (runOpcode op (s.setOp op)) = exec (decodeCommand (op.setWidth 32)) s := by
  unfold runOpcode
  split_ifs
  case neg =>
    have hillegal : decodeCommand (op.setWidth 32) = .illegal (op.setWidth 32) := by
      unfold decodeCommand
      split_ifs
      case neg => rfl
      all_goals bv_omega
    rw [hillegal, exec_illegal, resv_setWidth, opcode_setWidth, if_neg (not_not.2 rfl)]
  all_goals
    subst op
    rfl

/-- R220: a write to CMD answers what the command of its word answers. -/
theorem exec_wrCmd (low : BitVec 2) (v : Word) (s : State) :
    exec (.wrCmd low v) s = exec (decodeCommand v) s := by
  show Host.Outcome.next (runCommand v s) = _
  by_cases hresv : v.extractLsb' 8 24 = 0
  · rw [runCommand, if_neg (not_not.2 hresv), runOpcode_eq_exec_decodeCommand,
      ← eq_setWidth_of_resv_eq_zero hresv]
  · rw [runCommand, if_pos hresv, decodeCommand_of_resv_ne_zero hresv, exec_illegal, if_pos hresv]

theorem decodeCommand_isCommand (v : Word) : (decodeCommand v).isCommand = true := by
  unfold decodeCommand
  split_ifs <;> rfl

/-! ## The frame of each command: all it does not name is as before (R93) -/

theorem runCrcAccum_frame (s : State) :
    runCrcAccum s = { s with
      statusCode := (runCrcAccum s).statusCode
      statusDetail := (runCrcAccum s).statusDetail
      crcState := (runCrcAccum s).crcState } := by
  obtain ⟨-, h⟩ | ⟨-, h⟩ := runCrcAccum_cases s <;> rw [h] <;> rfl

theorem runValidate_frame (s : State) :
    runValidate s = { s with
      statusCode := (runValidate s).statusCode
      statusDetail := (runValidate s).statusDetail } := by
  obtain ⟨-, h⟩ | ⟨-, h⟩ := runValidate_cases s <;> rw [h] <;> rfl

theorem runValidateStr_frame (s : State) :
    runValidateStr s = { s with
      statusCode := (runValidateStr s).statusCode
      statusDetail := (runValidateStr s).statusDetail
      typeReg := (runValidateStr s).typeReg } := by
  obtain ⟨-, h⟩ | ⟨-, -, h⟩ | ⟨-, -, h⟩ := runValidateStr_cases s <;> rw [h]
  · rfl
  · rfl
  · rw [runValidate_frame]

theorem parseBody_frame (len : Nat) (s : State) :
    parseBody len s = { s with
      statusCode := (parseBody len s).statusCode
      statusDetail := (parseBody len s).statusDetail
      typeReg := (parseBody len s).typeReg
      length := (parseBody len s).length
      crcStored := (parseBody len s).crcStored
      crcComputed := (parseBody len s).crcComputed
      consumed := (parseBody len s).consumed } := by
  rw [parseBody_eq]
  split <;> rfl

theorem runParse_frame (s : State) :
    runParse s = { s with
      statusCode := (runParse s).statusCode
      statusDetail := (runParse s).statusDetail
      typeReg := (runParse s).typeReg
      length := (runParse s).length
      crcStored := (runParse s).crcStored
      crcComputed := (runParse s).crcComputed
      consumed := (runParse s).consumed } := by
  obtain ⟨-, h⟩ | ⟨-, -, h⟩ | ⟨-, -, -, h⟩ | ⟨-, -, h⟩ := runParse_cases s <;> rw [h]
  · rfl
  · rfl
  · rfl
  · rw [parseBody_frame]

theorem runSerialize_frame (s : State) :
    runSerialize s = { s with
      statusCode := (runSerialize s).statusCode
      statusDetail := (runSerialize s).statusDetail
      length := (runSerialize s).length
      crcStored := (runSerialize s).crcStored
      crcComputed := (runSerialize s).crcComputed
      outLen := (runSerialize s).outLen
      obuf := (runSerialize s).obuf } := by
  obtain ⟨-, h⟩ | ⟨-, -, h⟩ | ⟨-, -, h⟩ := runSerialize_cases s <;> rw [h]
  · rfl
  · rfl
  · rw [serializeBody_eq]; rfl

/-! ## The writers of each register -/

/-- What a command `c` may have changed between `s` and `t`, register by register (R27 to R29, R31 to R36); STATUS
is left out, since every command may change it (R23, R242). -/
structure ChangedByCommand (c : Instr) (s t : State) : Prop where
  srcOff : t.srcOff = s.srcOff
  srcLen : t.srcLen = s.srcLen
  typeReg : t.typeReg ≠ s.typeReg → c ∈ [Instr.parse, Instr.validateStr]
  frameRegs : (t.length, t.crcStored, t.crcComputed) ≠ (s.length, s.crcStored, s.crcComputed) →
    c ∈ [Instr.parse, Instr.serialize]
  consumed : t.consumed ≠ s.consumed → c = .parse
  outLen : t.outLen ≠ s.outLen → c = .serialize
  crcState : t.crcState ≠ s.crcState → c ∈ [Instr.crcInit, Instr.crcAccum]

theorem changedByCommand_of_exec {c : Instr} {s t : State} (hc : c.isCommand = true) (h : exec c s = .next t) :
    ChangedByCommand c s t := by
  cases c <;> obtain rfl := Host.Outcome.next.inj h
  case nop | illegal | crcInit => constructor <;> simp [runNop, runIllegal, runCrcInit]
  case crcAccum => rw [runCrcAccum_frame]; constructor <;> simp
  case validate => rw [runValidate_frame]; constructor <;> simp
  case validateStr => rw [runValidateStr_frame]; constructor <;> simp
  case parse => rw [runParse_frame]; constructor <;> simp
  case serialize => rw [runSerialize_frame]; constructor <;> simp
  all_goals cases hc

/-- A host write of a buffer changes no register (R225, R226). -/
theorem State.hostWrite_eq_setMem (s : State) (b : Buffer) (idx : Word) (v : Byte) :
    ∃ m, s.hostWrite b idx v = s.setMem b m := by
  unfold State.hostWrite
  split
  · exact ⟨_, rfl⟩
  · exact ⟨s.mem b, by cases b <;> rfl⟩

/-- Settles O18: a command changes what its frame names, a write to CMD what the command of its word changes, and
every other transaction at most the one register it stores. -/
theorem eachRegisterHasItsWriters : Obligations.EachRegisterHasItsWriters := by
  intro i s s' h hreset
  by_cases hc : i.isCommand = true
  · have hch := changedByCommand_of_exec hc h
    refine ⟨fun hne => absurd hch.srcOff hne, fun hne => absurd hch.srcLen hne, fun _ => .inl hc, fun hne => ?_,
      fun hne => ?_, fun hne => .inl (hch.consumed hne), fun hne => .inl (hch.outLen hne), fun hne => ?_⟩
    · have hmem := List.mem_pair.1 (hch.typeReg hne)
      tauto
    · have hmem := List.mem_pair.1 (hch.frameRegs hne)
      tauto
    · have hmem := List.mem_pair.1 (hch.crcState hne)
      tauto
  cases i
  case nop | crcInit | crcAccum | validate | validateStr | parse | serialize | illegal => exact absurd rfl hc
  case wrCmd low v =>
    have hch := changedByCommand_of_exec (decodeCommand_isCommand v) ((exec_wrCmd low v s).symm.trans h)
    exact ⟨fun hne => absurd hch.srcOff hne, fun hne => absurd hch.srcLen hne, fun _ => .inr ⟨low, v, rfl⟩,
      fun hne => .inr (.inr (.inr ⟨low, v, rfl, hch.typeReg hne⟩)),
      fun hne => .inr (.inr ⟨low, v, rfl, hch.frameRegs hne⟩),
      fun hne => .inr ⟨low, v, rfl, hch.consumed hne⟩,
      fun hne => .inr ⟨low, v, rfl, hch.outLen hne⟩,
      fun hne => .inr (.inr (.inr (.inr (.inr ⟨low, v, rfl, hch.crcState hne⟩))))⟩
  case reset => exact absurd rfl hreset
  case ibufWr idx b | obufWr idx b =>
    obtain rfl := Host.Outcome.next.inj h
    obtain ⟨m, hm⟩ := s.hostWrite_eq_setMem _ idx b
    rw [hm]
    simp
  all_goals
    obtain rfl := Host.Outcome.next.inj h
    simp

/-! ## What PARSE consumes -/

/-- The body of PARSE ends with OK and consumes the frame, or with CRC_MISMATCH and leaves CONSUMED (R181, R34). -/
theorem parseBody_consumed (len : Nat) (s : State) :
    ((parseBody len s).statusCode = 0 ∧ (parseBody len s).length = BitVec.ofNat 32 len ∧
      (parseBody len s).consumed = BitVec.ofNat 32 (12 + len)) ∨
    ((parseBody len s).statusCode = 3 ∧ (parseBody len s).consumed = s.consumed) := by
  rw [parseBody_eq]
  split
  · exact .inl ⟨rfl, rfl, rfl⟩
  · exact .inr ⟨rfl, rfl⟩

/-- PARSE ends with OK and consumes a frame within the region, or with another code and consumes nothing (R34). -/
theorem runParse_consumed (s : State) :
    ((runParse s).statusCode = 0 ∧ (runParse s).consumed.toNat = 12 + (runParse s).length.toNat ∧
      (runParse s).consumed.toNat ≤ s.srcLen.toNat) ∨
    ((runParse s).statusCode ≠ 0 ∧ (runParse s).consumed = 0) := by
  obtain ⟨-, h⟩ | ⟨-, -, h⟩ | ⟨-, -, -, h⟩ | ⟨-, hlen, h⟩ := runParse_cases s <;> rw [h]
  · exact .inr ⟨by simp [Code.bits], rfl⟩
  · exact .inr ⟨by simp [Code.bits], rfl⟩
  · exact .inr ⟨by simp [Code.bits], rfl⟩
  · -- the frame lies in the region, so neither LENGTH nor CONSUMED wraps in its register
    have hregion : s.srcLen.toNat < 2 ^ 32 := s.srcLen.isLt
    obtain ⟨hok, hlength, hconsumed⟩ | ⟨hcode, hconsumed⟩ :=
      parseBody_consumed (s.readBE32 .ibuf s.srcOff.toNat).toNat { s with consumed := 0 }
    · refine .inl ⟨hok, ?_⟩
      rw [hconsumed, hlength, BitVec.toNat_ofNat, BitVec.toNat_ofNat, Nat.mod_eq_of_lt (by omega),
        Nat.mod_eq_of_lt (by omega)]
      exact ⟨rfl, hlen⟩
    · exact .inr ⟨by rw [hcode]; decide, hconsumed⟩

/-- Settles O35: the two ends of `runParse_consumed`, with STATUS.OP set before. -/
theorem parseConsumesTheFrameOrNothing : Obligations.ParseConsumesTheFrameOrNothing := by
  intro s t h
  obtain rfl := Host.Outcome.next.inj h
  obtain ⟨hok, hfits⟩ | ⟨hcode, hzero⟩ := runParse_consumed (s.setOp 0x20)
  · exact ⟨fun _ => hfits, fun hne => absurd hok hne⟩
  · exact ⟨fun h0 => absurd h0 hcode, fun _ => hzero⟩

end Sys2Proof.Machine
end

section
/-!
PROOFS. Register offsets (O4) and the writers of the buffers (O21): every instruction completes, a register access
depends on the slot of its offset alone, and only IBUF_WR, OBUF_WR and SERIALIZE write a buffer.
-/
namespace Sys2Proof.Machine

/-! ## Register offsets -/

/-- No arm of `exec` faults or refuses (log entry 7). -/
theorem exec_completes (i : Instr) (s : State) : ∃ t, exec i s = .next t := by
  cases i <;> exact ⟨_, rfl⟩

/-- The slot of an offset is not in the bits that `& 0xFC` clears (R65). -/
@[simp] theorem offSlot_and_FC (off : BitVec 8) : offSlot (off &&& 0xFC#8) = offSlot off := by
  have hmask : (0xFC#8).extractLsb' 2 6 = BitVec.allOnes 6 := by decide
  rw [offSlot, BitVec.extractLsb'_and, hmask, BitVec.and_allOnes, offSlot]

theorem regRead_congr {off off' : BitVec 8} (h : offSlot off = offSlot off') (s : State) :
    s.regRead off = s.regRead off' := by
  unfold State.regRead
  rw [h]

/-- Two register writes to one slot do the same: no meaning uses `low`, or the offset of an ignored write. -/
theorem exec_decodeRegWr_congr {off off' : BitVec 8} (h : offSlot off = offSlot off') (v : Word) (s : State) :
    exec (decodeRegWr off v) s = exec (decodeRegWr off' v) s := by
  unfold decodeRegWr
  rw [h]
  split_ifs <;> rfl

/-- Settles O4: an offset and its `& 0xFC` have one slot. -/
theorem offsetBitsOneAndZeroAreIgnored : Obligations.OffsetBitsOneAndZeroAreIgnored := by
  intro off v s
  have hslot : offSlot off = offSlot (off &&& 0xFC#8) := (offSlot_and_FC off).symm
  refine ⟨?_, exec_decodeRegWr_congr hslot v s, exec_completes _ s, exec_completes _ s⟩
  rw [exec_regRd, exec_regRd, regRead_congr hslot]

/-! ## The writers of the buffers -/

/-- No command writes IBUF, and none but SERIALIZE writes OBUF (R79). -/
theorem mem_of_exec_command {c : Instr} {s t : State} {b : Buffer} (hc : c.isCommand = true)
    (hb : b = .obuf → c ≠ .serialize) (h : exec c s = .next t) : t.mem b = s.mem b := by
  cases c <;> obtain rfl := Host.Outcome.next.inj h
  case nop | illegal | crcInit => cases b <;> rfl
  case crcAccum => rw [runCrcAccum_frame]; cases b <;> rfl
  case validate => rw [runValidate_frame]; cases b <;> rfl
  case validateStr => rw [runValidateStr_frame]; cases b <;> rfl
  case parse => rw [runParse_frame]; cases b <;> rfl
  case serialize =>
    rw [runSerialize_frame]
    cases b
    · rfl
    · exact absurd rfl (hb rfl)
  all_goals cases hc

theorem readByte_of_exec_command {c : Instr} {s t : State} {b : Buffer} (hc : c.isCommand = true)
    (hb : b = .obuf → c ≠ .serialize) (h : exec c s = .next t) (j : Nat) : t.readByte b j = s.readByte b j :=
  State.readByte_congr t s b j (mem_of_exec_command hc hb h)
    ((State.ownFields_eq_iff s t).1 (exec_ownFields h)).2.1

/-- SERIALIZE changes an OBUF byte only inside the frame of the region, and then ends with OK (R79, R189). -/
theorem runSerialize_changes_obuf {s : State} {j : Nat}
    (hne : (runSerialize s).readByte .obuf j ≠ s.readByte .obuf j) :
    (runSerialize s).statusCode = 0 ∧ j < 12 + s.srcLen.toNat := by
  obtain ⟨-, h⟩ | ⟨-, -, h⟩ | ⟨-, -, h⟩ := runSerialize_cases s <;> rw [h] at hne ⊢
  · exact absurd rfl hne
  · exact absurd rfl hne
  · rw [serializeBody_eq] at hne ⊢
    refine ⟨rfl, not_le.1 fun hj => hne ?_⟩
    refine State.readByte_memWrite_outside s .obuf 0 j (frame s.typeReg s.region) (.inr ?_)
    simpa [frame_length] using hj

/-- A command that changes an OBUF byte is a SERIALIZE that ends with OK and whose frame covers the byte. -/
theorem command_changes_obuf {c : Instr} {s t : State} {j : Nat} (hc : c.isCommand = true) (h : exec c s = .next t)
    (hne : t.readByte .obuf j ≠ s.readByte .obuf j) :
    c = .serialize ∧ t.statusCode = 0 ∧ j < 12 + s.srcLen.toNat := by
  by_cases hser : c = .serialize
  · subst hser
    obtain rfl := Host.Outcome.next.inj h
    exact ⟨rfl, runSerialize_changes_obuf (s := s.setOp 0x21) hne⟩
  · exact absurd (readByte_of_exec_command hc (fun _ => hser) h j) hne

/-- A host write changes at most the byte it names, where the buffer has it (R225, R226). -/
theorem State.hostWrite_changes {s : State} {b b' : Buffer} {idx : Word} {v : Byte} {j : Nat}
    (hne : (s.hostWrite b idx v).readByte b' j ≠ s.readByte b' j) :
    b' = b ∧ j = idx.toNat ∧ idx.toNat < s.config.bufBytes := by
  unfold State.hostWrite at hne
  split at hne
  next hidx =>
    by_cases hb : b' = b
    · subst hb
      refine ⟨rfl, Decidable.byContradiction fun hj => hne ?_, hidx⟩
      rw [State.readByte_setMem_same, Memory.read, Memory.get?_write_other _ _ _ _ hj]
      rfl
    · exact absurd (State.readByte_setMem_other _ _ _ _ _ hb) hne
  next => exact absurd rfl hne

/-- Settles O21: a command by `command_changes_obuf`, a write to CMD as the command of its word, the two host writes by
`State.hostWrite_changes`; every other instruction leaves both buffers. -/
theorem bufferBytesHaveTheirWriters : Obligations.BufferBytesHaveTheirWriters := by
  intro i s s' j h
  by_cases hc : i.isCommand = true
  · refine ⟨fun hne => absurd (readByte_of_exec_command (b := .ibuf) hc nofun h j) hne, fun hne => ?_⟩
    obtain ⟨hser, hframe⟩ := command_changes_obuf hc h hne
    exact .inr ⟨.inl hser, hframe⟩
  cases i
  case nop | crcInit | crcAccum | validate | validateStr | parse | serialize | illegal => exact absurd rfl hc
  case wrCmd low v =>
    rw [exec_wrCmd] at h
    have hv := decodeCommand_isCommand v
    refine ⟨fun hne => absurd (readByte_of_exec_command (b := .ibuf) hv nofun h j) hne, fun hne => ?_⟩
    obtain ⟨hser, hframe⟩ := command_changes_obuf hv h hne
    exact .inr ⟨.inr ⟨low, v, rfl, hser⟩, hframe⟩
  case ibufWr idx b =>
    obtain rfl := Host.Outcome.next.inj h
    refine ⟨fun hne => ⟨idx, b, rfl, (State.hostWrite_changes hne).2⟩, fun hne => ?_⟩
    exact nomatch (State.hostWrite_changes hne).1
  case obufWr idx b =>
    obtain rfl := Host.Outcome.next.inj h
    refine ⟨fun hne => ?_, fun hne => .inl ⟨idx, b, rfl, (State.hostWrite_changes hne).2⟩⟩
    exact nomatch (State.hostWrite_changes hne).1
  all_goals
    obtain rfl := Host.Outcome.next.inj h
    exact ⟨fun hne => absurd rfl hne, fun hne => absurd rfl hne⟩

end Sys2Proof.Machine
end

section
/-!
PROOFS. What an instruction depends on: a command reads IBUF only in its region (O43), PARSE only as far as the
declared frame (O44), and no instruction reads what the host has issued after it, so that transactions take effect in
issue order (O9).
-/
namespace Sys2Proof.Machine

/-! ## The fields a command may depend on only through its region -/

/-- IBUF with the draw behind its unwritten bytes, which a command reads only in its region (R78); LATENCY and the
transactions still pending, which no instruction reads (R280, R72). -/
structure Unread where
  ibuf : Memory
  powerOnDraw : Nat
  latency : Nat
  pending : List Txn

/-- The values `s` has in those fields. -/
def State.unread (s : State) : Unread := ⟨s.ibuf, s.powerOnDraw, s.config.latency, s.pending⟩

/-- `s` with other values in those fields. -/
def State.withUnread (s : State) (u : Unread) : State :=
  { s with
    ibuf := u.ibuf
    powerOnDraw := u.powerOnDraw
    config := { s.config with latency := u.latency }
    pending := u.pending }

@[simp] theorem State.withUnread_srcOff (s : State) (u : Unread) : (s.withUnread u).srcOff = s.srcOff := rfl

/-- Two states hold the same IBUF bytes at `a`, …, `a + n - 1`. -/
def IbufAgrees (s s' : State) (a n : Nat) : Prop :=
  ∀ k, k < n → s'.readByte .ibuf (a + k) = s.readByte .ibuf (a + k)

theorem IbufAgrees.memRead {s s' : State} {a n : Nat} (h : IbufAgrees s s' a n) {i k : Nat} (hik : i + k ≤ n) :
    s'.memRead .ibuf (a + i) k = s.memRead .ibuf (a + i) k :=
  State.memRead_congr _ _ _ _ _ _ _ fun l hl => by
    rw [Nat.add_assoc]
    exact h (i + l) (by omega)

theorem IbufAgrees.readBE32 {s s' : State} {a n : Nat} (h : IbufAgrees s s' a n) {i : Nat} (hi : i + 4 ≤ n) :
    s'.readBE32 .ibuf (a + i) = s.readBE32 .ibuf (a + i) := by
  simp only [State.readBE32, Nat.add_assoc]
  rw [h i (by omega), h (i + 1) (by omega), h (i + 2) (by omega), h (i + 3) (by omega)]

theorem IbufAgrees.mono {s s' : State} {a n m : Nat} (h : IbufAgrees s s' a n) (hm : m ≤ n) : IbufAgrees s s' a m :=
  fun k hk => h k (hk.trans_le hm)

/-! ## Every command, with other values in those fields -/

/-- A check that does not depend on the replaced fields: it is enough that each branch does as before. -/
theorem withUnread_ite {p : Prop} [Decidable p] {u : Unread} {x y x' y' : State} (hx : p → x' = x.withUnread u)
    (hy : ¬p → y' = y.withUnread u) : (if p then x' else y') = (if p then x else y).withUnread u := by
  split_ifs with hp
  · exact hx hp
  · exact hy hp

section
variable {s : State} {u : Unread}

/-- The bytes of the region agree where the region lies in IBUF. -/
def RegionAgrees (s : State) (u : Unread) : Prop :=
  s.regionBad = false → IbufAgrees s (s.withUnread u) s.srcOff.toNat s.srcLen.toNat

theorem RegionAgrees.region_eq (h : RegionAgrees s u) (hb : ¬s.regionBad = true) :
    (s.withUnread u).region = s.region :=
  (h (Bool.eq_false_of_not_eq_true hb)).memRead (i := 0) (Nat.zero_add _).le

theorem runCrcAccum_withUnread (h : RegionAgrees s u) :
    runCrcAccum (s.withUnread u) = (runCrcAccum s).withUnread u := by
  refine withUnread_ite (fun _ => rfl) fun hb => ?_
  rw [h.region_eq hb]
  rfl

theorem runValidate_withUnread (s : State) (u : Unread) :
    runValidate (s.withUnread u) = (runValidate s).withUnread u :=
  withUnread_ite (fun _ => rfl) fun _ => rfl

theorem runValidateStr_withUnread (h : RegionAgrees s u) :
    runValidateStr (s.withUnread u) = (runValidateStr s).withUnread u := by
  refine withUnread_ite (fun _ => rfl) fun hb => withUnread_ite (fun _ => rfl) fun hlen => ?_
  have hag : IbufAgrees s (s.withUnread u) s.srcOff.toNat 4 := not_not.1 hlen ▸ h (Bool.eq_false_of_not_eq_true hb)
  have hag0 : (s.withUnread u).readByte .ibuf s.srcOff.toNat = s.readByte .ibuf s.srcOff.toNat :=
    hag 0 (by omega)
  simp only [State.withUnread_srcOff, hag0, hag 1 (by omega), hag 2 (by omega), hag 3 (by omega)]
  exact withUnread_ite (fun _ => rfl) fun _ => rfl

theorem runSerialize_withUnread (h : RegionAgrees s u) :
    runSerialize (s.withUnread u) = (runSerialize s).withUnread u := by
  refine withUnread_ite (fun _ => rfl) fun hb => withUnread_ite (fun _ => rfl) fun _ => ?_
  have hregion : State.region { s.withUnread u with outLen := 0 } = State.region { s with outLen := 0 } :=
    h.region_eq hb
  rw [serializeBody_eq, serializeBody_eq, hregion]
  rfl

theorem parseBody_withUnread {len : Nat} (h : IbufAgrees s (s.withUnread u) s.srcOff.toNat (12 + len)) :
    parseBody len (s.withUnread u) = (parseBody len s).withUnread u := by
  have hstored : (s.withUnread u).readBE32 .ibuf (s.srcOff.toNat + 8 + len) =
      s.readBE32 .ibuf (s.srcOff.toNat + 8 + len) := by
    rw [Nat.add_assoc]
    exact h.readBE32 (by omega)
  rw [parseBody_eq, parseBody_eq]
  simp only [State.withUnread_srcOff, h.readBE32 (i := 4) (by omega), hstored,
    h.memRead (i := 4) (k := 4 + len) (by omega)]
  exact withUnread_ite (fun _ => rfl) fun _ => rfl

/-- PARSE reads the length bytes where the region has a frame's 12, and the frame they declare where it fits (R183). -/
theorem runParse_withUnread
    (hlength : s.regionBad = false → 12 ≤ s.srcLen.toNat → IbufAgrees s (s.withUnread u) s.srcOff.toNat 4)
    (hframe : s.regionBad = false → 12 + (s.readBE32 .ibuf s.srcOff.toNat).toNat ≤ s.srcLen.toNat →
      IbufAgrees s (s.withUnread u) s.srcOff.toNat (12 + (s.readBE32 .ibuf s.srcOff.toNat).toNat)) :
    runParse (s.withUnread u) = (runParse s).withUnread u := by
  refine withUnread_ite (fun _ => rfl) fun hb => withUnread_ite (fun _ => rfl) fun h12 => ?_
  have hb := Bool.eq_false_of_not_eq_true hb
  have hlen : (s.withUnread u).readBE32 .ibuf s.srcOff.toNat = s.readBE32 .ibuf s.srcOff.toNat :=
    (hlength hb (not_lt.1 h12)).readBE32 (i := 0) (by omega)
  show (if s.srcLen.toNat < 12 + ((s.withUnread u).readBE32 .ibuf s.srcOff.toNat).toNat
    then State.raise { s.withUnread u with consumed := 0 } .truncated 0x02
    else parseBody ((s.withUnread u).readBE32 .ibuf s.srcOff.toNat).toNat { s.withUnread u with consumed := 0 }) = _
  rw [hlen]
  exact withUnread_ite (fun _ => rfl) fun hfits =>
    parseBody_withUnread (s := { s with consumed := 0 }) (hframe hb (not_lt.1 hfits))

/-- Every command answers as before, with the replaced fields as they were given (R77, R78). -/
theorem exec_command_withUnread {c : Instr} {t : State} (hc : c.isCommand = true) (hreg : RegionAgrees s u)
    (h : exec c s = .next t) : exec c (s.withUnread u) = .next (t.withUnread u) := by
  cases c <;> obtain rfl := Host.Outcome.next.inj h
  case nop | illegal | crcInit => rfl
  case crcAccum => exact congrArg _ (runCrcAccum_withUnread (s := s.setOp 0x02) hreg)
  case validate => exact congrArg _ (runValidate_withUnread (s.setOp 0x10) u)
  case validateStr => exact congrArg _ (runValidateStr_withUnread (s := s.setOp 0x11) hreg)
  case parse =>
    refine congrArg _ (runParse_withUnread (s := s.setOp 0x20) (fun hb h12 => ?_) fun hb hfits => ?_)
    · exact (hreg hb).mono (le_trans (by omega) h12)
    · exact (hreg hb).mono hfits
  case serialize => exact congrArg _ (runSerialize_withUnread (s := s.setOp 0x21) hreg)
  all_goals cases hc

end

/-! ## Two states that differ in IBUF and the draw -/

/-- Another IBUF and another draw, the other two values kept. -/
def Unread.withIbuf (u : Unread) (m : Memory) (draw : Nat) : Unread := { u with ibuf := m, powerOnDraw := draw }

/-- Replacing them after an instruction leaves LATENCY and the pending transactions as the instruction left them. -/
theorem withUnread_ibuf_of_exec {i : Instr} {s t : State} (h : exec i s = .next t) (m : Memory) (draw : Nat) :
    t.withUnread (s.unread.withIbuf m draw) = { t with ibuf := m, powerOnDraw := draw } := by
  obtain ⟨hconfig, -, hpending⟩ := (State.ownFields_eq_iff s t).1 (exec_ownFields h)
  rw [State.withUnread, Unread.withIbuf, State.unread, ← hconfig, ← hpending]

/-- Settles O43: the other state is the first with its IBUF and its draw replaced. -/
theorem commandsReadIbufOnlyInTheirRegion : Obligations.CommandsReadIbufOnlyInTheirRegion := by
  intro i s s' t hc hs hregion h
  obtain ⟨m, draw, rfl⟩ : ∃ m draw, s' = s.withUnread (s.unread.withIbuf m draw) := ⟨_, _, hs⟩
  have hreg : RegionAgrees s (s.unread.withIbuf m draw) :=
    fun hb => hregion ((State.regionBad_eq_false s).1 hb)
  rw [exec_command_withUnread hc hreg h, withUnread_ibuf_of_exec h]
  rfl

/-- Settles O44: the same for PARSE, whose reads are the length bytes and the frame they declare. -/
theorem parseReadsNoFurtherThanTheFrame : Obligations.ParseReadsNoFurtherThanTheFrame := by
  intro s s' t hs hlength hframe h
  obtain ⟨m, draw, rfl⟩ : ∃ m draw, s' = s.withUnread (s.unread.withIbuf m draw) := ⟨_, _, hs⟩
  have hparse := runParse_withUnread (s := s.setOp 0x20) (u := s.unread.withIbuf m draw)
    (fun hb => hlength ((State.regionBad_eq_false s).1 hb)) fun hb => hframe ((State.regionBad_eq_false s).1 hb)
  refine (congrArg Host.Outcome.next hparse).trans ?_
  rw [Host.Outcome.next.inj h, withUnread_ibuf_of_exec h]
  rfl

/-! ## LATENCY and the transactions issued later -/

/-- `s` with another LATENCY and other transactions still pending. -/
def State.withLater (s : State) (latency : Nat) (later : List Txn) : State :=
  s.withUnread { s.unread with latency := latency, pending := later }

theorem State.hostWrite_withLater (s : State) (b : Buffer) (idx : Word) (v : Byte) (n : Nat) (later : List Txn) :
    (s.withLater n later).hostWrite b idx v = (s.hostWrite b idx v).withLater n later := by
  have hsize : (s.withLater n later).config.bufBytes = s.config.bufBytes := rfl
  rw [State.hostWrite, hsize, State.hostWrite]
  split
  · cases b <;> rfl
  · rfl

/-- No command writes any of these fields. -/
theorem unread_of_exec_command {c : Instr} {s t : State} (hc : c.isCommand = true) (h : exec c s = .next t) :
    t.unread = s.unread := by
  obtain ⟨hconfig, hdraw, hpending⟩ := (State.ownFields_eq_iff s t).1 (exec_ownFields h)
  have hibuf : t.ibuf = s.ibuf := mem_of_exec_command (b := .ibuf) hc nofun h
  rw [State.unread, hibuf, hdraw, hconfig, hpending, State.unread]

/-- The region is the same in both states, since IBUF and the draw are. -/
theorem exec_command_withLater {c : Instr} {s t : State} (hc : c.isCommand = true) (h : exec c s = .next t)
    (n : Nat) (later : List Txn) : exec c (s.withLater n later) = .next (t.withLater n later) := by
  rw [State.withLater, State.withLater, unread_of_exec_command hc h]
  exact exec_command_withUnread hc (fun _ _ _ => rfl) h

/-- No instruction reads LATENCY (R280) or what the host issues after it (R72). -/
theorem exec_withLater {i : Instr} {s t : State} (h : exec i s = .next t) (n : Nat) (later : List Txn) :
    exec i (s.withLater n later) = .next (t.withLater n later) := by
  by_cases hc : i.isCommand = true
  · exact exec_command_withLater hc h n later
  cases i
  case nop | crcInit | crcAccum | validate | validateStr | parse | serialize | illegal => exact absurd rfl hc
  case wrCmd low v =>
    rw [exec_wrCmd] at h ⊢
    exact exec_command_withLater (decodeCommand_isCommand v) h n later
  case ibufWr idx b | obufWr idx b =>
    obtain rfl := Host.Outcome.next.inj h
    exact congrArg _ (State.hostWrite_withLater s _ idx b n later)
  all_goals
    obtain rfl := Host.Outcome.next.inj h
    rfl

theorem exec_withPending {i : Instr} {s t : State} (h : exec i s = .next t) (later : List Txn) :
    exec i { s with pending := later } = .next { t with pending := later } := by
  obtain ⟨hconfig, -, -⟩ := (State.ownFields_eq_iff s t).1 (exec_ownFields h)
  have hlater := exec_withLater h s.config.latency later
  have ht : t.withLater s.config.latency later = { t with pending := later } := by rw [← hconfig]; rfl
  exact hlater.trans (congrArg _ ht)

/-! ## Runs of transactions -/

/-- A step that takes `x` does the same whatever is pending after `x`. -/
theorem step_pending_cons {s r : State} {x : Txn} {ts : List Txn} (h : step { s with pending := x :: ts } = .next r)
    (later : List Txn) : step { s with pending := x :: later } = .next { r with pending := later } := by
  rw [step_of_pending rfl] at h ⊢
  exact exec_withPending h later

theorem run_of_step {s r : State} (h : step s = .next r) (k : Nat) : core.run (k + 1) s = core.run k r := by
  rw [core_run_succ, h]

/-- Settles O9: by induction on the transactions issued first. -/
theorem transactionsTakeEffectInIssueOrder : Obligations.TransactionsTakeEffectInIssueOrder := by
  intro s t ts us h
  induction ts generalizing s with
  | nil =>
    obtain rfl := Host.Outcome.next.inj h
    exact ⟨rfl, by simp⟩
  | cons x ts ih =>
    obtain ⟨r, hr⟩ := exec_completes (decode x) (s.accept ts)
    have hstep : step { s with pending := x :: ts } = .next r := (step_of_pending rfl).trans hr
    have hpending : r.pending = ts := ((State.ownFields_eq_iff _ r).1 (exec_ownFields hr)).2.2
    subst hpending
    rw [List.length_cons, run_of_step hstep] at h
    obtain ⟨hdone, hrun⟩ := ih r h
    refine ⟨hdone, ?_⟩
    rw [List.length_cons, Nat.succ_add, List.cons_append, run_of_step (step_pending_cons hstep (r.pending ++ us)), hrun]

end Sys2Proof.Machine
end

section
/-!
PROOFS. The encodings: decoding and encoding undo each other (O1, O2), the illegal command words (O3), sample words
(O5), and the frame of each command (O42).
-/
namespace Sys2Proof.Machine

/-! ## The parts of an offset -/

@[simp] theorem offSlot_offOf (slot : BitVec 6) (low : BitVec 2) : offSlot (offOf slot low) = slot :=
  BitVec.extractLsb'_append_eq_left

@[simp] theorem offLow_offOf (slot : BitVec 6) (low : BitVec 2) : offLow (offOf slot low) = low :=
  BitVec.extractLsb'_append_eq_right

theorem offOf_offSlot_offLow (off : BitVec 8) : offOf (offSlot off) (offLow off) = off :=
  BitVec.extractLsb'_append_extractLsb' (w := 6) (len := 2)

theorem offOf_offLow_of_offSlot {off : BitVec 8} {slot : BitVec 6} (h : offSlot off = slot) :
    offOf slot (offLow off) = off := by
  rw [← h, offOf_offSlot_offLow]

/-! ## Register writes -/

/-- The register slots whose writes R224 does not ignore. -/
def writtenSlots : List (BitVec 6) := [0x00#6, 0x02#6, 0x03#6, 0x04#6, 0x0B#6, 0x0C#6, 0x0D#6]

/-- `ignoresWrite` lists the other slots of R224: it holds at no written slot, whatever the ignored bits. -/
theorem ignoresWrite_offOf_of_mem : ∀ slot ∈ writtenSlots, ∀ low, ignoresWrite (offOf slot low) = false := by
  decide

theorem offSlot_notMem_of_ignoresWrite {off : BitVec 8} (h : ignoresWrite off = true) :
    offSlot off ∉ writtenSlots := by
  intro hmem
  have hwritten := ignoresWrite_offOf_of_mem _ hmem (offLow off)
  rw [offOf_offSlot_offLow, h] at hwritten
  cases hwritten

theorem decodeRegWr_of_ignoresWrite {off : BitVec 8} (h : ignoresWrite off = true) (v : Word) :
    decodeRegWr off v = .wrIgnored off v := by
  have hslot := offSlot_notMem_of_ignoresWrite h
  simp only [writtenSlots, List.mem_cons, List.not_mem_nil, or_false, not_or] at hslot
  simp [decodeRegWr, hslot]

theorem encode_decodeRegWr (off : BitVec 8) (v : Word) : encode (decodeRegWr off v) = .regWr off v := by
  unfold decodeRegWr
  split_ifs
  case neg => rfl
  all_goals exact congrArg (fun o => Txn.regWr o v) (offOf_offLow_of_offSlot ‹_›)

/-! ## Command words -/

/-- The words that encode no command are those R92 does not assign (R94). -/
theorem decodeCommand_eq_illegal_iff (v : Word) : decodeCommand v = .illegal v ↔ v ∉ assignedWords := by
  unfold decodeCommand assignedWords
  split_ifs <;> simp_all

theorem encodeCommand_decodeCommand (v : Word) : encodeCommand (decodeCommand v) = some v := by
  unfold decodeCommand
  split_ifs
  case neg => rfl
  all_goals
    subst v
    rfl

theorem decodeCommand_wellFormed (v : Word) : WellFormed (decodeCommand v) = true := by
  unfold decodeCommand
  split_ifs
  case neg => simp_all [WellFormed, assignedWords]
  all_goals rfl

/-- A command has a word, is written to CMD with it at offset 0x00 (R98), and is the command its word selects (R92). -/
theorem exists_commandWord {c : Instr} (hwf : WellFormed c = true) (hc : c.isCommand = true) :
    ∃ v, encodeCommand c = some v ∧ encode c = .regWr 0x00 v ∧ decodeCommand v = c := by
  cases c
  case illegal v => exact ⟨v, rfl, rfl, (decodeCommand_eq_illegal_iff v).2 (by simpa [WellFormed] using hwf)⟩
  case nop | crcInit | crcAccum | validate | validateStr | parse | serialize => exact ⟨_, rfl, rfl, rfl⟩
  all_goals cases hc

/-! ## The two round trips -/

theorem decode_encode {i : Instr} (hwf : WellFormed i = true) (hc : i.isCommand = false) : decode (encode i) = i := by
  cases i
  case wrIgnored off v => exact decodeRegWr_of_ignoresWrite hwf v
  case wrCmd | wrSrcOff | wrSrcLen | wrType | wrCrcState | wrCrcIn8 | wrCrcIn32 => simp [encode, decode, decodeRegWr]
  case regRd | ibufRd | ibufWr | obufRd | obufWr | reset => rfl
  all_goals cases hc

theorem encode_decode (t : Txn) : encode (decode t) = t := by
  cases t
  case regWr off v => exact encode_decodeRegWr off v
  all_goals rfl

/-- Settles O1: a transaction by its tuple, a command by its word, which a write to CMD carries. -/
theorem decodeOfEncodeIsTheInstruction : Obligations.DecodeOfEncodeIsTheInstruction := by
  refine fun i hwf => ⟨decode_encode hwf, fun hc => ?_⟩
  obtain ⟨v, hword, htxn, hdecode⟩ := exists_commandWord hwf hc
  exact ⟨v, hword, htxn, rfl, hdecode⟩

theorem decode_wellFormed (t : Txn) : WellFormed (decode t) = true ∧ (decode t).isCommand = false := by
  cases t
  case regWr off v => exact Laws.decodeRegWr_wellFormed off v
  all_goals exact ⟨rfl, rfl⟩

/-- Settles O2: nothing of the tuple or of the word is lost. -/
theorem encodeOfDecodeIsTheTransaction : Obligations.EncodeOfDecodeIsTheTransaction :=
  ⟨fun t => ⟨(decode_wellFormed t).1, (decode_wellFormed t).2, encode_decode t⟩,
    fun v => ⟨decodeCommand_wellFormed v, decodeCommand_isCommand v, encodeCommand_decodeCommand v⟩⟩

/-- Settles O5: the words and tuples are evaluated. -/
theorem sampleWordsDecode : Obligations.SampleWordsDecode := by
  unfold Obligations.SampleWordsDecode
  decide

/-! ## The illegal command words -/

/-- With RESV = 0 the illegal OPCODEs are the three ranges of R94 between the seven of R92. -/
theorem decodeCommand_setWidth_illegal_iff (op : BitVec 8) :
    decodeCommand (op.setWidth 32) = .illegal (op.setWidth 32) ↔
      (0x03 ≤ op.toNat ∧ op.toNat ≤ 0x0F) ∨ (0x12 ≤ op.toNat ∧ op.toNat ≤ 0x1F) ∨ 0x22 ≤ op.toNat := by
  have hop : op.toNat < 2 ^ 8 := op.isLt
  have hword : (op.setWidth 32).toNat = op.toNat := BitVec.toNat_setWidth_of_le (by decide)
  simp only [decodeCommand_eq_illegal_iff, assignedWords, List.mem_cons, List.not_mem_nil, or_false,
    BitVec.toNat_eq, hword, BitVec.ofNat_eq_ofNat, BitVec.toNat_ofNat]
  omega

/-- Settles O3: RESV, then the OPCODE; the answer is that of `runIllegal`, and a write to CMD answers the same. -/
theorem illegalWordsOnlyReport : Obligations.IllegalWordsOnlyReport := by
  refine ⟨fun v => ?_, fun v low s h => ⟨exec_illegal v s, by rw [exec_wrCmd, h]⟩⟩
  by_cases hresv : v.extractLsb' 8 24 = 0
  · have hop := decodeCommand_setWidth_illegal_iff (v.extractLsb' 0 8)
    rw [← eq_setWidth_of_resv_eq_zero hresv] at hop
    simpa [hresv] using hop
  · exact iff_of_true (decodeCommand_of_resv_ne_zero hresv) (.inl hresv)

/-! ## The frame of each command -/

/-- Settles O42: the frame of each command body, with STATUS.OP set before; the buffers by their writers. -/
theorem commandsWriteOnlyTheirOperands : Obligations.CommandsWriteOnlyTheirOperands := by
  intro i s t h
  refine ⟨?_, ?_, ?_, ?_, ?_, fun hc => readByte_of_exec_command (b := .ibuf) hc nofun h,
    fun hc hne => readByte_of_exec_command (b := .obuf) hc (fun _ => hne) h⟩
  · rintro (rfl | rfl | ⟨v, rfl⟩) <;> obtain rfl := Host.Outcome.next.inj h
    · rfl
    · rw [runValidate_frame]
      rfl
    · rfl
  · rintro (rfl | rfl) <;> obtain rfl := Host.Outcome.next.inj h
    · rfl
    · rw [runCrcAccum_frame]
      rfl
  · rintro rfl
    obtain rfl := Host.Outcome.next.inj h
    rw [runValidateStr_frame]
    rfl
  · rintro rfl
    obtain rfl := Host.Outcome.next.inj h
    rw [runParse_frame]
    rfl
  · rintro rfl
    refine ⟨?_, fun j hj => Decidable.byContradiction fun hne => ?_⟩
    · obtain rfl := Host.Outcome.next.inj h
      rw [runSerialize_frame]
      rfl
    · obtain ⟨-, hok, hin⟩ := command_changes_obuf rfl h hne
      exact hj.elim (fun hcode => hcode hok) fun hle => absurd hin (not_lt.2 hle)

end Sys2Proof.Machine
end

section
/-!
PROOFS. The type-code validator: FLAGS bit by bit (O22), the two commands with their mask (O23, O24), and how the
verdict of VALIDATE relates to FLAGS.VALID (O25).
-/
namespace Sys2Proof.Machine

/-! ## FLAGS -/

theorem letter_eq_true_iff (b : Byte) :
    letter b = true ↔ (0x41 ≤ b.toNat ∧ b.toNat ≤ 0x5A) ∨ (0x61 ≤ b.toNat ∧ b.toNat ≤ 0x7A) := by
  simp [letter]

theorem bitAt_getLsbD (b : Bool) {i : Nat} (hi : i < 32) (k : Nat) :
    (bitAt b i).getLsbD k = (decide (k = i) && b) := by
  cases b
  · simp [bitAt]
  · rw [bitAt, if_pos rfl, ← BitVec.twoPow_eq, BitVec.getLsbD_twoPow]
    simp [hi, eq_comm]

/-- Each flag stands at its own bit, and no other bit is set (R30, R121). -/
theorem flagsOf_getLsbD (t : Word) (k : Nat) :
    (flagsOf t).getLsbD k =
      (decide (k = 0) && flagCritical t || decide (k = 1) && flagPublic t
        || decide (k = 2) && flagReservedValid t || decide (k = 3) && flagSafeToCopy t
        || decide (k = 4) && flagRangeOk t || decide (k = 5) && flagValid t
        || decide (k = 8) && flagInRange t 0 || decide (k = 9) && flagInRange t 1
        || decide (k = 10) && flagInRange t 2 || decide (k = 11) && flagInRange t 3) := by
  simp [flagsOf, bitAt_getLsbD]

theorem flagsOf_unused (t : Word) {k : Nat} (hk : k = 6 ∨ k = 7 ∨ 12 ≤ k) : (flagsOf t).getLsbD k = false := by
  have hne : k ≠ 0 ∧ k ≠ 1 ∧ k ≠ 2 ∧ k ≠ 3 ∧ k ≠ 4 ∧ k ≠ 5 ∧ k ≠ 8 ∧ k ≠ 9 ∧ k ≠ 10 ∧ k ≠ 11 := by omega
  simp [flagsOf_getLsbD, hne]

theorem flagsOf_rangeOk (t : Word) : (flagsOf t).getLsbD 4 = flagRangeOk t := by
  rw [flagsOf_getLsbD]
  simp

theorem flagsOf_valid (t : Word) : (flagsOf t).getLsbD 5 = flagValid t := by
  rw [flagsOf_getLsbD]
  simp

/-- Offset 0x14 is FLAGS (R223). -/
theorem regRead_flags (s : State) : s.regRead 0x14 = flagsOf s.typeReg := rfl

/-- Bit 5 of type byte `i`, as a bit of TYPE (R29). -/
theorem typeByte_getLsbD_five (t : Word) (i : Fin 4) :
    (typeByte t i).getLsbD 5 = t.getLsbD (24 - 8 * i.val + 5) := by
  rw [typeByte, BitVec.getLsbD_extractLsb', decide_eq_true (by decide), Bool.true_and]

theorem flagCritical_eq (t : Word) : flagCritical t = !t.getLsbD 29 := congrArg not (typeByte_getLsbD_five t 0)

theorem flagPublic_eq (t : Word) : flagPublic t = !t.getLsbD 21 := congrArg not (typeByte_getLsbD_five t 1)

theorem flagReservedValid_eq (t : Word) : flagReservedValid t = !t.getLsbD 13 :=
  congrArg not (typeByte_getLsbD_five t 2)

theorem flagSafeToCopy_eq (t : Word) : flagSafeToCopy t = t.getLsbD 5 := typeByte_getLsbD_five t 3

/-- Settles O22: the bit of each flag, then the flag as a function of TYPE. -/
theorem flagsAreTheFunctionOfType : Obligations.FlagsAreTheFunctionOfType := by
  refine ⟨letter_eq_true_iff, fun s => ?_⟩
  rw [regRead_flags]
  refine ⟨?_, ?_, ?_, ?_, ?_, ?_, ?_, ?_, ?_, ?_, fun _ => flagsOf_unused _⟩
  all_goals
    simp only [flagsOf_getLsbD]
    simp [flagCritical_eq, flagPublic_eq, flagReservedValid_eq, flagSafeToCopy_eq, flagRangeOk, flagValid,
      flagInRange, typeByte]

/-! ## The range check -/

theorem typeMask_getLsbD_of_lt (t : Word) {k : Nat} (hk : k < 4) :
    (typeMask t).getLsbD k = !letter (t.extractLsb' (24 - 8 * k) 8) := by
  obtain ⟨h0, h1, h2, h3⟩ := rangeMask_bits (typeByte t 0) (typeByte t 1) (typeByte t 2) (typeByte t 3)
  match k, hk with
  | 0, _ => exact h0
  | 1, _ => exact h1
  | 2, _ => exact h2
  | 3, _ => exact h3

theorem typeMask_getLsbD_of_le (t : Word) {k : Nat} (hk : 4 ≤ k) : (typeMask t).getLsbD k = false := by
  have hle : (typeMask t).toNat ≤ 15 := rangeMask_le _ _ _ _
  have hpow : 2 ^ 4 ≤ 2 ^ k := Nat.pow_le_pow_right (by decide) hk
  exact Nat.testBit_lt_two_pow (by omega)

theorem typeMask_eq_zero_iff (t : Word) : typeMask t = 0 ↔ flagRangeOk t = true := by
  rw [typeMask, rangeMask_eq_zero]
  simp [flagRangeOk, flagInRange, and_assoc]

/-- The range check in one form (R123): it reports the mask of TYPE, and CODE says whether the mask is zero. -/
theorem runValidate_eq (s : State) :
    runValidate s = { s with
      statusCode := if typeMask s.typeReg = 0 then 0 else 1
      statusDetail := typeMask s.typeReg } := by
  obtain ⟨hm, h⟩ | ⟨hm, h⟩ := runValidate_cases s <;> rw [h]
  · rw [if_pos hm, hm]
    rfl
  · rw [if_neg hm]
    rfl

theorem exec_validate (s : State) : exec .validate s = .next (runValidate (s.setOp 0x10)) := rfl

/-- Settles O23: the mask of TYPE, and the range check in one form. -/
theorem validateChecksTheFourBytesOfType : Obligations.ValidateChecksTheFourBytesOfType :=
  ⟨rfl, fun s => ⟨typeMask s.typeReg, fun _ => typeMask_getLsbD_of_lt _, fun _ => typeMask_getLsbD_of_le _,
    by rw [exec_validate, runValidate_eq]; rfl⟩⟩

/-! ## VALIDATE_STR -/

theorem exec_validateStr (s : State) : exec .validateStr s = .next (runValidateStr (s.setOp 0x11)) := rfl

/-- Byte `k` of a big-endian word in a buffer (R12, R29). -/
theorem State.readBE32_byte (s : State) (b : Buffer) (a : Nat) {k : Nat} (hk : k < 4) :
    (s.readBE32 b a).extractLsb' (24 - 8 * k) 8 = s.readByte b (a + k) := by
  match k, hk with
  | 0, _ => exact be32_byte0 _ _ _ _
  | 1, _ => exact be32_byte1 _ _ _ _
  | 2, _ => exact be32_byte2 _ _ _ _
  | 3, _ => exact be32_byte3 _ _ _ _

/-- Settles O24: the three cases of `runValidateStr`; the loaded TYPE has the bytes of the region. -/
theorem validateStrLoadsAndChecksTheRegion : Obligations.ValidateStrLoadsAndChecksTheRegion := by
  refine ⟨rfl, fun s => ?_⟩
  rw [exec_validateStr, ← State.regionBad_eq_true, ← State.regionBad_eq_false]
  obtain ⟨hb, h⟩ | ⟨hb, hn, h⟩ | ⟨hb, hn, h⟩ := runValidateStr_cases (s.setOp 0x11) <;>
    rw [State.regionBad_setOp] at hb <;> rw [h, hb]
  · exact ⟨fun _ => rfl, nofun, nofun⟩
  · exact ⟨nofun, fun _ _ => rfl, fun _ h4 => absurd h4 hn⟩
  · refine ⟨nofun, fun _ hne => absurd hn hne, fun _ _ =>
      ⟨s.readBE32 .ibuf s.srcOff.toNat, typeMask (s.readBE32 .ibuf s.srcOff.toNat),
        fun k hk => s.readBE32_byte _ _ hk, fun k hk => ?_, fun _ => typeMask_getLsbD_of_le _, ?_⟩⟩
    · rw [typeMask_getLsbD_of_lt _ hk, State.readBE32_byte _ _ _ hk]
    · rw [runValidate_eq]
      rfl

/-! ## The verdict of VALIDATE and FLAGS.VALID -/

theorem runValidate_statusCode_eq_zero_iff (s : State) :
    (runValidate s).statusCode = 0 ↔ flagRangeOk s.typeReg = true := by
  rw [← typeMask_eq_zero_iff, runValidate_eq]
  by_cases hm : typeMask s.typeReg = 0 <;> simp [hm]

theorem runValidate_typeReg (s : State) : (runValidate s).typeReg = s.typeReg := by rw [runValidate_eq]

/-- VALID is RANGE_OK with bit 5 of type byte 2 clear (R122). -/
theorem flagValid_eq_true_iff (t : Word) : flagValid t = true ↔ flagRangeOk t = true ∧ t.getLsbD 13 = false := by
  simp [flagValid, flagReservedValid_eq, and_comm]

/-- Settles O25: VALIDATE keeps TYPE, and its CODE is zero when RANGE_OK is set; `Rust` is evaluated. -/
theorem validIsNotTheVerdictOfValidate : Obligations.ValidIsNotTheVerdictOfValidate := by
  refine ⟨fun s t h => ?_, fun s hs => ⟨_, exec_validate s, ?_, ?_⟩⟩
  · obtain rfl := Host.Outcome.next.inj ((exec_validate s).symm.trans h)
    rw [runValidate_statusCode_eq_zero_iff, regRead_flags, runValidate_typeReg, flagsOf_rangeOk, flagsOf_valid]
    exact ⟨.rfl, flagValid_eq_true_iff _⟩
  · rw [runValidate_statusCode_eq_zero_iff, State.setOp_typeReg, hs]
    decide
  · rw [regRead_flags, runValidate_typeReg, State.setOp_typeReg, hs]
    decide

end Sys2Proof.Machine
end

section
/-!
PROOFS. The CRC generator: the loop and the table method (O26, O27), the commands and ports that write CRC_STATE (O28,
O29, O30), and the sum that every step keeps or restarts (O47).
-/
namespace Sys2Proof.Machine

/-! ## The loop of R150 -/

theorem crcUpdate_eq_iterate (c : Word) (b : Byte) : crcUpdate c b = crcShift^[8] (c ^^^ b.setWidth 32) := rfl

/-- Any number of repetitions is linear over exclusive-or. -/
theorem crcShift_iterate_xor (n : Nat) (a b : Word) : crcShift^[n] (a ^^^ b) = crcShift^[n] a ^^^ crcShift^[n] b := by
  induction n with
  | zero => rfl
  | succ n ih => simp only [Function.iterate_succ_apply', ih, crcShift_xor]

theorem crcShift_of_getLsbD_zero {c : Word} (h : c.getLsbD 0 = false) : crcShift c = c >>> 1 := by
  rw [crcShift, h, if_neg Bool.false_ne_true]

/-- While the bits that leave the register are 0, the repetitions are one shift. -/
theorem crcShift_iterate_of_low_zero {n : Nat} {c : Word} (h : ∀ i < n, c.getLsbD i = false) :
    crcShift^[n] c = c >>> n := by
  induction n with
  | zero => simp
  | succ n ih =>
    have hbit : (c >>> n).getLsbD 0 = false := by simpa using h n (by omega)
    rw [Function.iterate_succ_apply', ih fun i hi => h i (by omega), crcShift_of_getLsbD_zero hbit,
      BitVec.shiftRight_add]

/-- Settles O26: the loop and the fold are the definitions, the two constants are evaluated. -/
theorem crcIsTheIsoHdlcFunction : Obligations.CrcIsTheIsoHdlcFunction :=
  ⟨crcUpdate_eq_iterate, fun _ => rfl, by decide +kernel, by decide +kernel⟩

/-! ## The table method of R152 -/

/-- The bits above the low byte only move down. -/
theorem crcShift_iterate_high_bits (x : Word) : crcShift^[8] (x >>> 8 <<< 8) = x >>> 8 := by
  rw [crcShift_iterate_of_low_zero fun i hi => by simp [hi]]
  ext i hi
  simpa using BitVec.lt_of_getLsbD

/-- A register is its bits above the low byte together with its low byte. -/
theorem high_bits_xor_low_byte (x : Word) : x >>> 8 <<< 8 ^^^ x &&& 0xFF#32 = x := by
  have hmask : ∀ i < 32, (0xFF#32).getLsbD i = decide (i < 8) := by decide
  ext i hi
  simp only [← BitVec.getLsbD_eq_getElem, BitVec.getLsbD_xor, BitVec.getLsbD_and, hmask i hi]
  by_cases h8 : i < 8
  · simp [h8]
  · simp [h8, hi, Nat.add_sub_cancel' (not_lt.1 h8)]

/-- The register splits into the bits above its low byte, which move down, and the low byte, which is an index of the
table. -/
theorem crcUpdate_eq_table (c : Word) (b : Byte) :
    crcUpdate c b = c >>> 8 ^^^ crcUpdate ((c ^^^ b.setWidth 32) &&& 0xFF#32) 0 := by
  have hbyte : (c ^^^ b.setWidth 32) >>> 8 = c >>> 8 := by
    ext i hi
    simp
  calc crcUpdate c b
    _ = crcShift^[8] ((c ^^^ b.setWidth 32) >>> 8 <<< 8 ^^^ (c ^^^ b.setWidth 32) &&& 0xFF#32) := by
      rw [high_bits_xor_low_byte, crcUpdate_eq_iterate]
    _ = c >>> 8 ^^^ crcShift^[8] ((c ^^^ b.setWidth 32) &&& 0xFF#32) := by
      rw [crcShift_iterate_xor, crcShift_iterate_high_bits, hbyte]
    _ = c >>> 8 ^^^ crcUpdate ((c ^^^ b.setWidth 32) &&& 0xFF#32) 0 := by
      simp [crcUpdate_eq_iterate]

/-- Settles O27: the method for every register and byte, and the five entries evaluated. -/
theorem tableMethodComputesCrcUpdate : Obligations.TableMethodComputesCrcUpdate :=
  ⟨crcUpdate_eq_table, by decide, by decide, by decide, by decide, by decide⟩

/-! ## The commands and ports that write CRC_STATE -/

/-- Settles O28: the answer of `runCrcInit`; CRC_OUT reads 0xFFFFFFFF exclusive-or itself. -/
theorem crcInitStartsANewSum : Obligations.CrcInitStartsANewSum :=
  ⟨rfl, fun _ => ⟨_, rfl, rfl, BitVec.xor_self⟩⟩

theorem exec_crcAccum (s : State) : exec .crcAccum s = .next (runCrcAccum (s.setOp 0x02)) := rfl

/-- Settles O29: the two cases of CRC_ACCUM, with STATUS.OP set before. -/
theorem crcAccumFeedsTheRegion : Obligations.CrcAccumFeedsTheRegion := by
  refine ⟨rfl, fun s => ?_⟩
  rw [exec_crcAccum, ← State.regionBad_eq_true, ← State.regionBad_eq_false]
  obtain ⟨hb, h⟩ | ⟨hb, h⟩ := runCrcAccum_cases (s.setOp 0x02) <;> rw [State.regionBad_setOp] at hb <;> rw [h, hb]
  · exact ⟨fun _ => rfl, nofun⟩
  · refine ⟨nofun, fun _ => ?_⟩
    rw [State.region_setOp, State.region_eq_regionBytes]
    rfl

theorem exec_wrCrcIn8 (low : BitVec 2) (v : Word) (s : State) :
    exec (.wrCrcIn8 low v) s = .next { s with crcState := crcUpdate s.crcState (v.extractLsb' 0 8) } := rfl

theorem exec_wrCrcIn32 (low : BitVec 2) (v : Word) (s : State) :
    exec (.wrCrcIn32 low v) s = .next { s with crcState := crcFeed s.crcState (bytesBE32 v) } := rfl

/-- Settles O30: CRC_IN32 feeds the four bytes of `bytesBE32`. -/
theorem crcPortsAdvanceCrcState : Obligations.CrcPortsAdvanceCrcState :=
  fun low v s => ⟨exec_wrCrcIn8 low v s, exec_wrCrcIn32 low v s, exec_wrCrcState low v s⟩

/-! ## The sum of the bytes fed -/

/-- A write to CMD feeds what the command of its word feeds. -/
theorem fedBytes_wrCmd (low : BitVec 2) (v : Word) (s : State) :
    fedBytes (.wrCmd low v) s = fedBytes (decodeCommand v) s := by
  unfold decodeCommand
  split_ifs <;> simp_all [fedBytes]

/-- A write to CMD restarts the sum exactly when the command of its word does. -/
theorem restartsCrc_wrCmd (low : BitVec 2) (v : Word) :
    restartsCrc (.wrCmd low v) = restartsCrc (decodeCommand v) := by
  unfold decodeCommand
  split_ifs <;> simp_all [restartsCrc]

/-- Which transactions are still pending does not change what one feeds. -/
theorem fedBytes_accept (i : Instr) (s : State) (rest : List Txn) : fedBytes i (s.accept rest) = fedBytes i s := by
  cases i <;> rfl

/-- CRC_ACCUM feeds the region where it lies in IBUF, and nothing otherwise. -/
theorem runCrcAccum_crcState (s : State) :
    (runCrcAccum s).crcState = crcFeed s.crcState (fedBytes .crcAccum s) := by
  obtain ⟨hb, h⟩ | ⟨hb, h⟩ := runCrcAccum_cases s <;> rw [h, fedBytes]
  · rw [if_neg (not_le.2 ((State.regionBad_eq_true s).1 hb))]
    rfl
  · rw [if_pos ((State.regionBad_eq_false s).1 hb), ← State.region_eq_regionBytes]
    rfl

/-- A command but CRC_INIT leaves CRC_STATE advanced by the bytes it feeds (R154, R93). -/
theorem crcState_of_exec_command {c : Instr} {s t : State} (hc : c.isCommand = true) (hr : restartsCrc c = false)
    (h : exec c s = .next t) : t.crcState = crcFeed s.crcState (fedBytes c s) := by
  cases c
  case crcAccum =>
    obtain rfl := Host.Outcome.next.inj h
    exact runCrcAccum_crcState (s.setOp 0x02)
  case nop | validate | validateStr | parse | serialize | illegal =>
    exact not_not.1 fun hne => absurd ((changedByCommand_of_exec hc h).crcState hne) (by simp)
  case crcInit => cases hr
  all_goals cases hc

/-- Every instruction that does not restart the sum leaves CRC_STATE advanced by the bytes it feeds. -/
theorem crcState_of_exec {i : Instr} {s t : State} (hr : restartsCrc i = false) (h : exec i s = .next t) :
    t.crcState = crcFeed s.crcState (fedBytes i s) := by
  by_cases hc : i.isCommand = true
  · exact crcState_of_exec_command hc hr h
  cases i
  case nop | crcInit | crcAccum | validate | validateStr | parse | serialize | illegal => exact absurd rfl hc
  case wrCmd low v =>
    rw [fedBytes_wrCmd]
    exact crcState_of_exec_command (decodeCommand_isCommand v) ((restartsCrc_wrCmd low v).symm.trans hr)
      ((exec_wrCmd low v s).symm.trans h)
  case wrCrcState | reset => cases hr
  case ibufWr idx b | obufWr idx b =>
    obtain rfl := Host.Outcome.next.inj h
    obtain ⟨m, hm⟩ := s.hostWrite_eq_setMem _ idx b
    rw [hm, State.setMem_crcState]
    rfl
  all_goals
    obtain rfl := Host.Outcome.next.inj h
    rfl

/-- Settles O47: a transaction that restarts the sum by its answer, every other by `crcState_of_exec`. -/
theorem crcStateStaysTheSumOfTheBytesFed : Obligations.CrcStateStaysTheSumOfTheBytesFed := by
  intro s s' fed hsum h
  refine ⟨fun t rest hpending => ?_, fun hidle => ?_⟩
  · have hexec : exec (decode t) (s.accept rest) = .next s' := (step_of_pending hpending).symm.trans h
    refine ⟨fun hr => ?_, ?_, fun low v hd => ?_⟩
    · rw [crcState_of_exec hr hexec, fedBytes_accept, crcFeed_append, State.accept_crcState, hsum]
    · rintro (hd | ⟨low, hd⟩)
      all_goals
        rw [hd] at hexec
        obtain rfl := Host.Outcome.next.inj hexec
        rfl
    · rw [hd] at hexec
      obtain rfl := Host.Outcome.next.inj hexec
      rfl
  · obtain rfl := Host.Outcome.next.inj ((step_of_idle hidle).symm.trans h)
    exact hsum

end Sys2Proof.Machine
end

section
/-!
PROOFS. The chunk frame commands: PARSE whole (O33) and on every frame (O34), SERIALIZE whole (O37), and what LENGTH
is after both (O38).
-/
namespace Sys2Proof.Machine

/-! ## Bytes that stand in a buffer -/

/-- The bytes `bs` stand in buffer `b` from index `a` up. -/
def State.Holds (s : State) (b : Buffer) (a : Nat) (bs : List Byte) : Prop := s.memRead b a bs.length = bs

theorem State.holds_iff_getElem? {s : State} {b : Buffer} {a : Nat} {bs : List Byte} :
    s.Holds b a bs ↔ ∀ k, k < bs.length → bs[k]? = some (s.readByte b (a + k)) := by
  constructor
  · intro h k hk
    rw [← State.memRead_getElem s b a bs.length k (by simpa using hk)]
    exact List.getElem?_eq_some_iff.2 ⟨hk, List.getElem_of_eq h.symm hk⟩
  · refine fun h => List.ext_getElem (by simp) fun k _ hk => ?_
    rw [State.memRead_getElem, ← Option.some_inj, ← h k hk, List.getElem?_eq_getElem hk]

theorem State.holds_append {s : State} {b : Buffer} {a : Nat} {xs ys : List Byte} :
    s.Holds b a (xs ++ ys) ↔ s.Holds b a xs ∧ s.Holds b (a + xs.length) ys := by
  rw [State.Holds, List.length_append, State.memRead_add]
  exact ⟨fun h => List.append_inj h (State.memRead_length _ _ _ _), fun ⟨hx, hy⟩ => congrArg₂ (· ++ ·) hx hy⟩

/-- The four bytes of a word stand where the word is read (R11, R12). -/
theorem State.holds_bytesBE32 {s : State} {b : Buffer} {a : Nat} {v : Word} :
    s.Holds b a (bytesBE32 v) ↔ s.readBE32 b a = v := by
  have hread : s.memRead b a 4 = bytesBE32 (s.readBE32 b a) := (bytesBE32_be32 _ _ _ _).symm
  rw [State.Holds, bytesBE32_length, hread]
  refine ⟨fun h => ?_, fun h => h ▸ rfl⟩
  simp only [bytesBE32, List.cons.injEq] at h
  obtain ⟨h0, h1, h2, h3, -⟩ := h
  rw [← be32_bytesBE32 (s.readBE32 b a), h0, h1, h2, h3, be32_bytesBE32]

/-- A frame in a buffer, by its four parts (R180). -/
theorem State.holds_frame {s : State} {b : Buffer} {a : Nat} {t : Word} {p : List Byte} :
    s.Holds b a (frame t p) ↔
      s.readBE32 b a = BitVec.ofNat 32 p.length ∧ s.readBE32 b (a + 4) = t ∧ s.Holds b (a + 8) p ∧
        s.readBE32 b (a + 8 + p.length) = crc32 (bytesBE32 t ++ p) := by
  have hcrc : a + (4 + 4 + p.length) = a + 8 + p.length := by omega
  simp only [frame, State.holds_append, State.holds_bytesBE32, List.length_append, bytesBE32_length, hcrc, and_assoc]

/-- What is written to a buffer stands there (R12). -/
theorem State.holds_memWrite (s : State) (b : Buffer) (a : Nat) (bs : List Byte) : (s.memWrite b a bs).Holds b a bs :=
  State.holds_iff_getElem?.2 fun k hk => by
    rw [State.readByte_memWrite_inside _ _ _ _ _ hk, List.getElem?_eq_getElem hk]

/-! ## What PARSE does -/

/-- The registers PARSE loads from the frame at the start of the region: its parts and the recomputed CRC (R181). -/
def State.loadFrame (s : State) : State :=
  let len := s.readBE32 .ibuf s.srcOff.toNat
  { s with
    length := len
    typeReg := s.readBE32 .ibuf (s.srcOff.toNat + 4)
    crcStored := s.readBE32 .ibuf (s.srcOff.toNat + 8 + len.toNat)
    crcComputed := crc32 (s.memRead .ibuf (s.srcOff.toNat + 4) (4 + len.toNat)) }

/-- The five outcomes of PARSE in the order of its checks, from the state it starts in (R181). -/
theorem exec_parse_cases (s : State) :
    (s.config.bufBytes < s.srcOff.toNat + s.srcLen.toNat ∧
      exec .parse s = .next { s with consumed := 0, statusCode := 5, statusDetail := 0, statusOp := 0x20 }) ∨
    (s.srcOff.toNat + s.srcLen.toNat ≤ s.config.bufBytes ∧ s.srcLen.toNat < 12 ∧
      exec .parse s = .next { s with consumed := 0, statusCode := 2, statusDetail := 1, statusOp := 0x20 }) ∨
    (s.srcOff.toNat + s.srcLen.toNat ≤ s.config.bufBytes ∧ 12 ≤ s.srcLen.toNat ∧
      s.srcLen.toNat < 12 + s.loadFrame.length.toNat ∧
      exec .parse s = .next { s with consumed := 0, statusCode := 2, statusDetail := 2, statusOp := 0x20 }) ∨
    (s.srcOff.toNat + s.srcLen.toNat ≤ s.config.bufBytes ∧ 12 + s.loadFrame.length.toNat ≤ s.srcLen.toNat ∧
      s.loadFrame.crcStored ≠ s.loadFrame.crcComputed ∧
      exec .parse s = .next { s.loadFrame with
        consumed := 0, statusCode := 3, statusDetail := 0, statusOp := 0x20 }) ∨
    (s.srcOff.toNat + s.srcLen.toNat ≤ s.config.bufBytes ∧ 12 + s.loadFrame.length.toNat ≤ s.srcLen.toNat ∧
      s.loadFrame.crcStored = s.loadFrame.crcComputed ∧
      exec .parse s = .next { s.loadFrame with
        consumed := BitVec.ofNat 32 (12 + s.loadFrame.length.toNat)
        statusCode := 0, statusDetail := 0, statusOp := 0x20 }) := by
  have hexec : exec .parse s = .next (runParse (s.setOp 0x20)) := rfl
  rw [hexec, ← State.regionBad_eq_true, ← State.regionBad_eq_false]
  obtain ⟨hb, h⟩ | ⟨hb, h12, h⟩ | ⟨hb, h12, hlen, h⟩ | ⟨hb, hlen, h⟩ := runParse_cases (s.setOp 0x20) <;> rw [h]
  · exact .inl ⟨hb, rfl⟩
  · exact .inr (.inl ⟨hb, h12, rfl⟩)
  · exact .inr (.inr (.inl ⟨hb, h12, hlen, rfl⟩))
  · rw [parseBody_eq]
    simp only [BitVec.ofNat_toNat, BitVec.setWidth_eq]
    split
    · exact .inr (.inr (.inr (.inr ⟨hb, hlen, ‹_›, rfl⟩)))
    · exact .inr (.inr (.inr (.inl ⟨hb, hlen, ‹_›, rfl⟩)))

/-- The CRC field of a frame with `len` payload bytes, byte by byte (R180). -/
theorem State.readBE32_crcField (s : State) (b : Buffer) (a len : Nat) :
    s.readBE32 b (a + 8 + len) = be32 (s.readByte b (a + (8 + len))) (s.readByte b (a + (9 + len)))
      (s.readByte b (a + (10 + len))) (s.readByte b (a + (11 + len))) := by
  unfold State.readBE32
  congr 2 <;> omega

/-- Settles O33: the five outcomes of `exec_parse_cases`, with the registers of `loadFrame` byte by byte. -/
theorem parseDecodesTheFrameOfTheRegion : Obligations.ParseDecodesTheFrameOfTheRegion := by
  refine ⟨rfl, fun s => ?_⟩
  intro byte n lenWord len stored computed regs
  have hstored : s.loadFrame.crcStored = stored := s.readBE32_crcField .ibuf s.srcOff.toNat len
  have hcomputed : s.loadFrame.crcComputed = computed := by
    refine congrArg crc32 ((s.memRead_eq_map .ibuf _ _).trans ?_)
    simp only [Nat.add_assoc]
    rfl
  have hregs : s.loadFrame = regs :=
    calc s.loadFrame
      _ = { regs with crcStored := s.loadFrame.crcStored, crcComputed := s.loadFrame.crcComputed } := rfl
      _ = regs := by rw [hstored, hcomputed]
  have hlen : s.loadFrame.length.toNat = len := rfl
  have hcases := exec_parse_cases s
  rw [hlen, hregs] at hcases
  obtain ⟨hb, h⟩ | ⟨hb, h12, h⟩ | ⟨hb, h12, hlen, h⟩ | ⟨hb, hlen, hcrc, h⟩ | ⟨hb, hlen, hcrc, h⟩ := hcases
  · exact ⟨fun _ => h, by omega, by omega, by omega, by omega⟩
  · exact ⟨by omega, fun _ _ => h, by omega, by omega, by omega⟩
  · exact ⟨by omega, by omega, fun _ _ _ => h, by omega, by omega⟩
  · exact ⟨by omega, by omega, by omega, fun _ _ _ => h, fun _ _ heq => absurd heq hcrc⟩
  · exact ⟨by omega, by omega, by omega, fun _ _ hne => absurd hcrc hne, fun _ _ _ => h⟩

/-- PARSE ends with OK exactly where a whole frame stands in the region and its CRC field agrees (R181). -/
theorem exec_parse_ok_iff {s t : State} :
    exec .parse s = .next t ∧ t.statusCode = 0 ↔
      s.srcOff.toNat + s.srcLen.toNat ≤ s.config.bufBytes ∧ 12 + s.loadFrame.length.toNat ≤ s.srcLen.toNat ∧
      s.loadFrame.crcStored = s.loadFrame.crcComputed ∧
      t = { s.loadFrame with
        consumed := BitVec.ofNat 32 (12 + s.loadFrame.length.toNat)
        statusCode := 0, statusDetail := 0, statusOp := 0x20 } := by
  obtain ⟨hb, h⟩ | ⟨hb, h12, h⟩ | ⟨hb, h12, hlen, h⟩ | ⟨hb, hlen, hcrc, h⟩ | ⟨hb, hlen, hcrc, h⟩ :=
    exec_parse_cases s <;> rw [h, Host.Outcome.next.injEq]
  · exact ⟨by rintro ⟨rfl, ⟨⟩⟩, by omega⟩
  · exact ⟨by rintro ⟨rfl, ⟨⟩⟩, by omega⟩
  · exact ⟨by rintro ⟨rfl, ⟨⟩⟩, by omega⟩
  · exact ⟨by rintro ⟨rfl, ⟨⟩⟩, fun ⟨_, _, heq, _⟩ => absurd heq hcrc⟩
  · exact ⟨fun ⟨ht, _⟩ => ⟨hb, hlen, hcrc, ht.symm⟩, fun ⟨_, _, _, ht⟩ => ⟨ht.symm, ht ▸ rfl⟩⟩

/-- What PARSE loads where the frame of `t` and `p` stands at the start of the region (R180, R181). -/
theorem State.loadFrame_of_holds {s : State} {t : Word} {p : List Byte} (hp : p.length < 2 ^ 32)
    (hframe : s.Holds .ibuf s.srcOff.toNat (frame t p)) :
    s.loadFrame = { s with
      length := BitVec.ofNat 32 p.length
      typeReg := t
      crcStored := crc32 (bytesBE32 t ++ p)
      crcComputed := crc32 (bytesBE32 t ++ p) } := by
  obtain ⟨hlen, htype, hpayload, hcrc⟩ := State.holds_frame.1 hframe
  have hnat : (BitVec.ofNat 32 p.length).toNat = p.length := Nat.mod_eq_of_lt hp
  have hsum : s.memRead .ibuf (s.srcOff.toNat + 4) (4 + p.length) = bytesBE32 t ++ p := by
    simpa [State.Holds] using State.holds_append.2 ⟨State.holds_bytesBE32.2 htype, hpayload⟩
  simp only [State.loadFrame, hlen, hnat, htype, hcrc, hsum]

/-- Settles O34: what PARSE loads from the frame passes its checks, the two CRC registers being equal. -/
theorem parseAcceptsEveryFrame : Obligations.ParseAcceptsEveryFrame := by
  intro s t p hb hfits hbytes
  have hp : p.length < 2 ^ 32 := by omega
  have hframe : s.Holds .ibuf s.srcOff.toNat (frame t p) := State.holds_iff_getElem?.2 (frame_length t p ▸ hbytes)
  obtain ⟨-, -, hpayload, -⟩ := State.holds_frame.1 hframe
  have hlen : s.loadFrame.length.toNat = p.length := by
    rw [State.loadFrame_of_holds hp hframe]
    exact Nat.mod_eq_of_lt hp
  refine ⟨(exec_parse_ok_iff.2 ⟨hb, hlen ▸ hfits, ?_, ?_⟩).1, State.holds_iff_getElem?.1 hpayload⟩
  · rw [State.loadFrame_of_holds hp hframe]
  · rw [hlen, State.loadFrame_of_holds hp hframe]

/-! ## What SERIALIZE does -/

/-- What SERIALIZE stores once its checks have passed: the frame of the region in OBUF and four registers (R189). -/
def State.storeFrame (s : State) : State :=
  { s.memWrite .obuf 0 (frame s.typeReg (regionBytes s)) with
    length := s.srcLen
    crcStored := crc32 (bytesBE32 s.typeReg ++ regionBytes s)
    crcComputed := crc32 (bytesBE32 s.typeReg ++ regionBytes s)
    outLen := BitVec.ofNat 32 (12 + s.srcLen.toNat) }

/-- The three outcomes of SERIALIZE in the order of its checks, from the state it starts in (R189). -/
theorem exec_serialize_cases (s : State) :
    (s.config.bufBytes < s.srcOff.toNat + s.srcLen.toNat ∧
      exec .serialize s = .next { s with outLen := 0, statusCode := 5, statusDetail := 0, statusOp := 0x21 }) ∨
    (s.srcOff.toNat + s.srcLen.toNat ≤ s.config.bufBytes ∧ s.config.bufBytes < 12 + s.srcLen.toNat ∧
      exec .serialize s = .next { s with outLen := 0, statusCode := 4, statusDetail := 0, statusOp := 0x21 }) ∨
    (s.srcOff.toNat + s.srcLen.toNat ≤ s.config.bufBytes ∧ 12 + s.srcLen.toNat ≤ s.config.bufBytes ∧
      exec .serialize s = .next { s.storeFrame with statusCode := 0, statusDetail := 0, statusOp := 0x21 }) := by
  have hexec : exec .serialize s = .next (runSerialize (s.setOp 0x21)) := rfl
  rw [hexec, ← State.regionBad_eq_true, ← State.regionBad_eq_false]
  obtain ⟨hb, h⟩ | ⟨hb, hfits, h⟩ | ⟨hb, hfits, h⟩ := runSerialize_cases (s.setOp 0x21) <;> rw [h]
  · exact .inl ⟨hb, rfl⟩
  · exact .inr (.inl ⟨hb, hfits, rfl⟩)
  · refine .inr (.inr ⟨hb, hfits, ?_⟩)
    rw [serializeBody_eq, State.region_eq_regionBytes]
    rfl

@[simp] theorem regionBytes_length (s : State) : (regionBytes s).length = s.srcLen.toNat := by simp [regionBytes]

/-- The frame SERIALIZE writes stands at the start of OBUF (R189). -/
theorem State.storeFrame_holds (s : State) : s.storeFrame.Holds .obuf 0 (frame s.typeReg (regionBytes s)) :=
  s.holds_memWrite .obuf 0 _

theorem State.storeFrame_obuf_above (s : State) {k : Nat} (hk : 12 + s.srcLen.toNat ≤ k) :
    s.storeFrame.readByte .obuf k = s.readByte .obuf k :=
  s.readByte_memWrite_outside .obuf 0 k (frame s.typeReg (regionBytes s))
    (.inr (by rwa [frame_length, regionBytes_length, Nat.zero_add]))

/-- SERIALIZE ends with OK exactly where the region lies in IBUF and the frame fits OBUF, and then stores it (R189). -/
theorem exec_serialize_ok_iff {s t : State} :
    exec .serialize s = .next t ∧ t.statusCode = 0 ↔
      s.srcOff.toNat + s.srcLen.toNat ≤ s.config.bufBytes ∧ 12 + s.srcLen.toNat ≤ s.config.bufBytes ∧
      t = { s.storeFrame with statusCode := 0, statusDetail := 0, statusOp := 0x21 } := by
  obtain ⟨hb, h⟩ | ⟨hb, hfits, h⟩ | ⟨hb, hfits, h⟩ := exec_serialize_cases s <;> rw [h, Host.Outcome.next.injEq]
  · exact ⟨by rintro ⟨rfl, ⟨⟩⟩, by omega⟩
  · exact ⟨by rintro ⟨rfl, ⟨⟩⟩, by omega⟩
  · exact ⟨fun ⟨ht, _⟩ => ⟨hb, hfits, ht.symm⟩, fun ⟨_, _, ht⟩ => ⟨ht.symm, ht ▸ rfl⟩⟩

/-- Settles O37: the three outcomes of `exec_serialize_cases`, and where the bytes of `storeFrame` stand. -/
theorem serializeBuildsTheFrame : Obligations.SerializeBuildsTheFrame := by
  refine ⟨rfl, fun s => ?_⟩
  obtain ⟨hb, h⟩ | ⟨hb, hfits, h⟩ | ⟨hb, hfits, h⟩ := exec_serialize_cases s
  · exact ⟨fun _ => h, by omega, by omega⟩
  · exact ⟨by omega, fun _ _ => h, by omega⟩
  · refine ⟨by omega, by omega, fun _ _ =>
      ⟨_, h, rfl, fun k hk => ?_, fun k => State.storeFrame_obuf_above s, fun _ => rfl⟩⟩
    have hbyte := State.holds_iff_getElem?.1 s.storeFrame_holds k (by rwa [frame_length, regionBytes_length])
    rwa [Nat.zero_add] at hbyte

/-! ## LENGTH after both -/

/-- Settles O38: LENGTH and the first word of the stored frame after SERIALIZE, and what PARSE loads. -/
theorem lengthIsThePayloadSize : Obligations.LengthIsThePayloadSize := by
  constructor
  · intro s t h h0
    obtain ⟨-, hfits, rfl⟩ := exec_serialize_ok_iff.1 ⟨h, h0⟩
    obtain ⟨hlen, -, -, -⟩ := State.holds_frame.1 s.storeFrame_holds
    rw [regionBytes_length, BitVec.ofNat_toNat, BitVec.setWidth_eq] at hlen
    refine ⟨rfl, hlen, fun hlegal => Nat.mod_eq_of_lt ?_⟩
    have hsize := hlegal.2
    omega
  · intro s t h h0
    obtain ⟨-, -, -, rfl⟩ := exec_parse_ok_iff.1 ⟨h, h0⟩
    exact ⟨rfl, rfl⟩

end Sys2Proof.Machine
end

section
/-!
PROOFS. Control: a write to CMD (O7), NOP (O41), register accesses by offset (O14, O15), and the host's ports of the two
buffers (O19, O20).
-/
namespace Sys2Proof.Machine

/-! ## Register accesses by offset -/

/-- Clearing the ignored bits of an offset keeps its slot (R65, R95). -/
theorem offSlot_of_and_FC {off o : BitVec 8} (h : off &&& 0xFC#8 = o) : offSlot off = offSlot o := by
  rw [← h, offSlot_and_FC]

/-- A read at each of the four offsets that reach a register is the read at the register's own offset (R21, R65). -/
theorem regRead_of_and_FC {off : BitVec 8} {r : Reg} (h : off &&& 0xFC#8 = regOffset r) (s : State) :
    s.regRead off = s.regRead (regOffset r) :=
  regRead_congr (offSlot_of_and_FC h) s

theorem offSlot_toNat (off : BitVec 8) : (offSlot off).toNat = off.toNat / 4 := by
  have hoff := off.isLt
  rw [offSlot, BitVec.extractLsb'_toNat, Nat.shiftRight_eq_div_pow]
  omega

/-- The slots above the sixteen of R21 are reserved and read as 0 (R223). -/
theorem regRead_of_reserved {off : BitVec 8} (h : 0x40 ≤ off.toNat) (s : State) : s.regRead off = 0 := by
  have hslot (k : BitVec 6) (hk : k.toNat < 0x10) : offSlot off ≠ k := by
    rintro rfl
    rw [offSlot_toNat] at hk
    omega
  simp [State.regRead, hslot]

/-- BUF_SIZE holds every legal `BUF_BYTES` (R10, R223). -/
theorem regRead_bufSize_toNat {s : State} (h : s.config.legal) :
    (s.regRead (regOffset .bufSize)).toNat = s.config.bufBytes := by
  have hsize := h.2
  exact Nat.mod_eq_of_lt (by omega)

/-- Settles O14: a read is the read at the register's own offset, whose value is evaluated. -/
theorem registerReadReturnsTheRegister : Obligations.RegisterReadReturnsTheRegister := by
  intro off s
  have read {r : Reg} (h : off &&& 0xFC = regOffset r) := regRead_of_and_FC h s
  refine ⟨s.regRead off, exec_regRd off s, read, read, read, read, read, read, read, read, read, read, read, read,
    read, read, read, fun h hlegal => ?_, fun h => regRead_of_reserved h s⟩
  rw [read h, regRead_bufSize_toNat hlegal]

theorem exec_regWr_of_and_FC {off o : BitVec 8} (h : off &&& 0xFC#8 = o) (v : Word) (s : State) :
    exec (decode (.regWr off v)) s = exec (decode (.regWr o v)) s :=
  exec_decodeRegWr_congr (offSlot_of_and_FC h) v s

theorem ignoresWrite_eq_true_iff (off : BitVec 8) :
    ignoresWrite off = true ↔ off &&& 0xFC#8 ∈ readOnlyOffsets ∨ 0x40 ≤ off.toNat := by
  simp [ignoresWrite]

/-- A write to a read-only or reserved offset changes nothing (R224). -/
theorem exec_regWr_of_ignoresWrite {off : BitVec 8} (h : ignoresWrite off = true) (v : Word) (s : State) :
    exec (decode (.regWr off v)) s = .next s := by
  rw [decode, decodeRegWr_of_ignoresWrite h, exec_wrIgnored]

/-- Settles O15: a write is the write at the register's own offset, or `ignoresWrite` lists its offset. -/
theorem registerWriteStoresOrIsIgnored : Obligations.RegisterWriteStoresOrIsIgnored := by
  intro off v s
  have write {o : BitVec 8} (h : off &&& 0xFC = o) := exec_regWr_of_and_FC h v s
  exact ⟨fun h => (write h).trans (exec_wrCmd 0 v s),
    fun h => (write h).trans (exec_wrSrcOff 0 v s),
    fun h => (write h).trans (exec_wrSrcLen 0 v s),
    fun h => (write h).trans (exec_wrType 0 v s),
    fun h => (write h).trans (exec_wrCrcState 0 v s),
    fun h => (write h).trans (exec_wrCrcIn8 0 v s),
    fun h => (write h).trans (exec_wrCrcIn32 0 v s),
    fun h => exec_regWr_of_ignoresWrite ((ignoresWrite_eq_true_iff off).2 h) v s⟩

/-! ## The host's ports of the buffers -/

theorem State.hostWrite_of_le {s : State} {idx : Word} (h : s.config.bufBytes ≤ idx.toNat) (b : Buffer) (v : Byte) :
    s.hostWrite b idx v = s :=
  if_neg (not_lt.2 h)

theorem State.readByte_hostWrite_same {s : State} {idx : Word} (h : idx.toNat < s.config.bufBytes) (b : Buffer)
    (v : Byte) : (s.hostWrite b idx v).readByte b idx.toNat = v := by
  rw [State.hostWrite, if_pos h, State.readByte_setMem_same, Memory.read, Memory.get?_write_same, Option.getD_some]

theorem State.readByte_hostWrite_other (s : State) (b : Buffer) {idx : Word} (v : Byte) {j : Nat}
    (h : j ≠ idx.toNat) : (s.hostWrite b idx v).readByte b j = s.readByte b j :=
  Decidable.byContradiction fun hne => h (State.hostWrite_changes hne).2.1

/-- IBUF_WR writes IBUF alone (R225). -/
theorem State.hostWrite_ibuf_frame (s : State) (idx : Word) (v : Byte) :
    s.hostWrite .ibuf idx v = { s with ibuf := (s.hostWrite .ibuf idx v).ibuf } := by
  obtain ⟨m, hm⟩ := s.hostWrite_eq_setMem .ibuf idx v
  rw [hm]
  rfl

/-- OBUF_WR writes OBUF alone (R226). -/
theorem State.hostWrite_obuf_frame (s : State) (idx : Word) (v : Byte) :
    s.hostWrite .obuf idx v = { s with obuf := (s.hostWrite .obuf idx v).obuf } := by
  obtain ⟨m, hm⟩ := s.hostWrite_eq_setMem .obuf idx v
  rw [hm]
  rfl

theorem exec_ibufRd (idx : Word) (s : State) :
    exec (.ibufRd idx) s = .next (s.respond (.byte (s.hostRead .ibuf idx))) := rfl

theorem exec_ibufWr (idx : Word) (b : Byte) (s : State) :
    exec (.ibufWr idx b) s = .next (s.hostWrite .ibuf idx b) := rfl

theorem exec_obufRd (idx : Word) (s : State) :
    exec (.obufRd idx) s = .next (s.respond (.byte (s.hostRead .obuf idx))) := rfl

theorem exec_obufWr (idx : Word) (b : Byte) (s : State) :
    exec (.obufWr idx b) s = .next (s.hostWrite .obuf idx b) := rfl

/-- Settles O19: the host's read and write of IBUF, inside the buffer and beyond it. -/
theorem ibufPortReadsAndWritesOneByte : Obligations.IbufPortReadsAndWritesOneByte := by
  intro idx b s
  rw [exec_ibufWr]
  exact ⟨exec_ibufRd idx s,
    fun h => ⟨_, rfl, s.hostWrite_ibuf_frame idx b, State.readByte_hostWrite_same h .ibuf b,
      fun _ hj => s.readByte_hostWrite_other .ibuf b hj⟩,
    fun h => congrArg _ (State.hostWrite_of_le h .ibuf b)⟩

/-- Settles O20: the host's read and write of OBUF, inside the buffer and beyond it. -/
theorem obufPortReadsAndWritesOneByte : Obligations.ObufPortReadsAndWritesOneByte := by
  intro idx b s
  rw [exec_obufWr]
  exact ⟨exec_obufRd idx s,
    fun h => ⟨_, rfl, s.hostWrite_obuf_frame idx b, State.readByte_hostWrite_same h .obuf b,
      fun _ hj => s.readByte_hostWrite_other .obuf b hj⟩,
    fun h => congrArg _ (State.hostWrite_of_le h .obuf b)⟩

/-! ## NOP -/

theorem exec_nop (s : State) : exec .nop s = .next (s.setOp 0x00).finish := rfl

/-- Settles O41: `finish` after STATUS.OP is set. -/
theorem nopClearsStatus : Obligations.NopClearsStatus :=
  ⟨rfl, exec_nop⟩

/-! ## A write to CMD -/

/-- The dispatch leaves STATUS.OP, which `runCommand` has set before it (R26). -/
theorem runOpcode_statusOp (op : BitVec 8) (s : State) : (runOpcode op s).statusOp = s.statusOp := by
  unfold runOpcode
  split_ifs
  · rfl
  · rfl
  · rw [runCrcAccum_frame]
  · rw [runValidate_frame]
  · rw [runValidateStr_frame]
  · rw [runParse_frame]
  · rw [runSerialize_frame]
  · rfl

theorem runCommand_statusOp (v : Word) (s : State) : (runCommand v s).statusOp = v.extractLsb' 0 8 := by
  unfold runCommand
  split_ifs
  · rfl
  · exact runOpcode_statusOp _ _

/-- No check of a command reads STATUS, and each of its ends writes CODE and DETAIL (R242, R245). -/
theorem runOpcode_of_result (op : BitVec 8) (s : State) (code : BitVec 4) (detail : Byte) :
    runOpcode op { s with statusCode := code, statusDetail := detail } = runOpcode op s := by
  unfold runOpcode
  split_ifs <;> rfl

theorem runCommand_of_status (v : Word) (s : State) (code : BitVec 4) (detail op : Byte) :
    runCommand v { s with statusCode := code, statusDetail := detail, statusOp := op } = runCommand v s :=
  ite_congr rfl (fun _ => rfl) fun _ => runOpcode_of_result _ (s.setOp (v.extractLsb' 0 8)) code detail

/-- Settles O7: the word's command by `exec_wrCmd`, the match of R220 by its cases, each the body of one command. -/
theorem commandWriteRunsTheCommandOfItsWord : Obligations.CommandWriteRunsTheCommandOfItsWord := by
  intro low v s
  refine ⟨exec_wrCmd low v s, ⟨runCommand v s, rfl, runCommand_statusOp v s, rfl⟩, ?_,
    fun code detail op => congrArg Host.Outcome.next (runCommand_of_status v s code detail op)⟩
  show Host.Outcome.next (runCommand v s) = _
  unfold runCommand runOpcode
  generalize v.extractLsb' 0 8 = op
  split_ifs
  case pos | neg => rfl
  all_goals
    subst op
    rfl

end Sys2Proof.Machine
end

section
/-!
PROOFS. Completion (O8), the parameter LATENCY (O45), RESET (O12) and power-on (O11, O13).
-/
namespace Sys2Proof.Machine

/-! ## Completion -/

theorem step_completes (s : State) : ∃ t, step s = .next t := by
  cases hp : s.pending with
  | nil => exact ⟨s, step_of_idle hp⟩
  | cons x rest =>
    rw [step_of_pending hp]
    exact exec_completes (decode x) (s.accept rest)

/-- Settles O8: no arm of `exec` faults or refuses, and a step runs at most one instruction. -/
theorem everyTransactionCompletes : Obligations.EveryTransactionCompletes :=
  ⟨exec_completes, step_completes⟩

/-! ## LATENCY -/

/-- An idle step reads nothing, and the instruction a step runs does not read LATENCY (R280). -/
theorem step_withLater {s t : State} (h : step s = .next t) (n : Nat) :
    step (s.withLater n s.pending) = .next (t.withLater n t.pending) := by
  cases hp : s.pending with
  | nil =>
    obtain rfl := Host.Outcome.next.inj ((step_of_idle hp).symm.trans h)
    rw [hp]
    exact step_of_idle rfl
  | cons x rest =>
    rw [step_of_pending hp] at h
    have hpending : t.pending = rest := ((State.ownFields_eq_iff _ t).1 (exec_ownFields h)).2.2
    rw [hpending]
    exact (step_of_pending rfl).trans (exec_withLater h n rest)

/-- Settles O45: `step_withLater` with the pending transactions left as they are. -/
theorem latencyIsNeverRead : Obligations.LatencyIsNeverRead :=
  fun _ _ n h => step_withLater h n

/-! ## RESET -/

@[simp] theorem exec_reset (s : State) : exec .reset s = .next s.resetRegisters := rfl

@[simp] theorem State.resetRegisters_statusWord (s : State) : s.resetRegisters.statusWord = 0 := by
  simp [State.statusWord]

/-- A TYPE of zeros: CRITICAL, PUBLIC and RESERVED_VALID are set by clear bits, and no byte is a letter (R30, R43). -/
theorem flagsOf_zero : flagsOf 0 = 0x00000007 := by decide

theorem regRead_crcOut (s : State) : s.regRead 0x38 = s.crcState ^^^ 0xFFFFFFFF#32 := rfl

/-- Settles O12: the reads are evaluated in the state `resetRegisters` gives, whose buffers are those of `s`. -/
theorem resetGivesTheResetValues : Obligations.ResetGivesTheResetValues := by
  intro s
  have hflags : s.resetRegisters.regRead 0x14 = 0x00000007 := flagsOf_zero
  have hcrcOut : s.resetRegisters.regRead 0x38 = 0 := by
    rw [regRead_crcOut, State.resetRegisters_crcState]
    decide
  exact ⟨s.resetRegisters, exec_reset s, rfl, s.resetRegisters_statusWord, hflags, hcrcOut, rfl, rfl, rfl, rfl,
    s.resetRegisters_readByte⟩

/-! ## Power-on -/

/-- A buffer no byte of which has been written reads as the free values of the draw (R271, I5). -/
theorem State.powerOn_readByte (c : Config) (draw : Nat) (b : Buffer) (i : Nat) :
    (State.powerOn c draw).readByte b i = Config.powerOnByte draw b i := by
  cases b <;> rfl

theorem State.powerOn_resetRegisters (c : Config) (draw : Nat) :
    (State.powerOn c draw).resetRegisters = State.powerOn c draw := rfl

/-- Settles O13: power-on has the registers RESET writes, and no written byte in a buffer. -/
theorem powerOnIsResetWithUnspecifiedBuffers : Obligations.PowerOnIsResetWithUnspecifiedBuffers := by
  intro c draw
  rw [exec_reset, State.powerOn_resetRegisters]
  exact ⟨rfl, State.powerOn_readByte c draw⟩

/-- The one clause of the invariant that is not about empty buffers or cleared registers is the range of R10. -/
theorem inv_powerOn {c : Config} (hlegal : c.legal) (draw : Nat) : Inv (State.powerOn c draw) where
  legal := hlegal
  ibufWf := .nil
  obufWf := .nil
  ibufWithin := nofun
  obufWithin := nofun
  status := (by decide : statusLegal 0 0 0 = true)
  consumed := .inl rfl
  outLen := .inl rfl

theorem vectors_legal : Config.vectors.legal := by decide

/-- Settles O11: `State.reset` is power-on with the parameters of the test vectors, which are legal. -/
theorem invariantHoldsAtPowerOn : Obligations.InvariantHoldsAtPowerOn :=
  ⟨fun _ draw hlegal => inv_powerOn hlegal draw, inv_powerOn vectors_legal 0⟩

end Sys2Proof.Machine
end

section
/-!
PROOFS. The CRC of byte sequences: one changed byte changes it (O32), and a run of transactions sums the bytes it feeds
(O31).
-/
namespace Sys2Proof.Machine

/-! ## One changed byte -/

/-- The byte in front of a common tail leaves different registers, and the tail keeps them different. -/
theorem crcFeed_byte_injective {c : Word} {b b' : Byte} {bs : List Byte}
    (h : crcFeed c (b :: bs) = crcFeed c (b' :: bs)) : b = b' :=
  crcUpdate_injective_byte c b b' (crcFeed_injective_state _ _ bs h)

/-- Two sequences that differ in one byte have different CRCs. -/
theorem crc32_set_ne {xs : List Byte} {j : Nat} (hj : j < xs.length) {b : Byte} (hb : b ≠ xs[j]) :
    crc32 (xs.set j b) ≠ crc32 xs := by
  intro h
  have hfeed : crcFeed 0xFFFFFFFF (xs.set j b) = crcFeed 0xFFFFFFFF (xs.set j xs[j]) := by
    rw [List.set_getElem_self]
    exact (BitVec.xor_left_inj _).1 h
  rw [List.set_eq_take_append_cons_drop, List.set_eq_take_append_cons_drop, if_pos hj, if_pos hj, crcFeed_append,
    crcFeed_append] at hfeed
  exact hb (crcFeed_byte_injective hfeed)

/-- A flipped bit changes its byte. -/
theorem flipBit_ne (b : Byte) {k : Nat} (hk : k < 8) : b ^^^ (1#8 <<< k) ≠ b := by
  intro h
  have hbit := congrArg (BitVec.getLsbD · k) h
  simp [hk] at hbit

/-- Settles O32: the flipped bit changes one byte, and one changed byte changes the CRC. -/
theorem oneFlippedBitChangesTheCrc : Obligations.OneFlippedBitChangesTheCrc :=
  fun xs j _ hj hk => crc32_set_ne hj (flipBit_ne xs[j] hk)

/-! ## A host-driven CRC sum -/

theorem step_of_exec {s r : State} {x : Txn} {ts : List Txn} (h : exec (decode x) (s.accept ts) = .next r) :
    step { s with pending := x :: ts } = .next r :=
  (step_of_pending rfl).trans h

/-- What a run feeds is what its first transaction feeds, then what the rest feeds from where that one leads. -/
theorem fedAlong_cons {s r : State} {x : Txn} {ts : List Txn} (h : exec (decode x) (s.accept ts) = .next r) :
    fedAlong s (x :: ts) = fedBytes (decode x) s ++ fedAlong r ts := by
  rw [fedAlong, step_of_exec h]

/-- A run of transactions none of which restarts the sum advances CRC_STATE by the bytes they feed (R159). -/
theorem crcState_of_run {s s' : State} {ts : List Txn} (hts : ∀ t ∈ ts, restartsCrc (decode t) = false)
    (h : core.run ts.length { s with pending := ts } = .next s') :
    s'.crcState = crcFeed s.crcState (fedAlong s ts) := by
  induction ts generalizing s with
  | nil =>
    obtain rfl := Host.Outcome.next.inj h
    rfl
  | cons x ts ih =>
    obtain ⟨hx, hts⟩ := List.forall_mem_cons.1 hts
    obtain ⟨r, hr⟩ := exec_completes (decode x) (s.accept ts)
    have hpending : r.pending = ts := ((State.ownFields_eq_iff _ r).1 (exec_ownFields hr)).2.2
    subst hpending
    rw [ih hts ((run_of_step (step_of_exec hr) r.pending.length).symm.trans h), crcState_of_exec hx hr, fedBytes_accept,
      State.accept_crcState, fedAlong_cons hr, crcFeed_append]

/-- After CRC_INIT, CRC_OUT is the CRC of what the run feeds (R153, R158). -/
theorem crcOut_of_run {s s1 s' : State} {ts : List Txn} (hinit : exec .crcInit s = .next s1)
    (hts : ∀ t ∈ ts, restartsCrc (decode t) = false)
    (h : core.run ts.length { s1 with pending := ts } = .next s') : s'.regRead 0x38 = crc32 (fedAlong s1 ts) := by
  obtain rfl := Host.Outcome.next.inj hinit
  rw [regRead_crcOut, crcState_of_run hts h]
  rfl

/-- The transactions that feed the CRC of a chunk: its type code, then its payload from the region. -/
def chunkTxns (t off len : Word) : List Txn := crcw t ++ region off len ++ cmd .crcAccum

theorem chunkTxns_eq (t off len : Word) :
    chunkTxns t off len = [wr .crcIn32 t, wr .srcOff off, wr .srcLen len, wr .cmd 0x00000002] := rfl

theorem chunkTxns_restartsCrc (t off len : Word) : ∀ x ∈ chunkTxns t off len, restartsCrc (decode x) = false := by
  rw [chunkTxns_eq]
  exact List.forall_iff_forall_mem.1 ⟨rfl, rfl, rfl, rfl⟩

/-- They feed the type code, then the region that SRC_OFF and SRC_LEN then name. -/
theorem fedAlong_chunkTxns {s : State} {t off len : Word} (hb : off.toNat + len.toNat ≤ s.config.bufBytes) :
    fedAlong s (chunkTxns t off len) = bytesBE32 t ++
      (List.range len.toNat).map fun k => s.readByte .ibuf (off.toNat + k) := by
  rw [chunkTxns_eq, fedAlong_cons (x := wr .crcIn32 t) (exec_wrCrcIn32 0 t _),
    fedAlong_cons (x := wr .srcOff off) (exec_wrSrcOff 0 off _),
    fedAlong_cons (x := wr .srcLen len) (exec_wrSrcLen 0 len _),
    fedAlong_cons (x := wr .cmd 0x00000002) ((exec_wrCmd 0 0x00000002 _).trans (exec_crcAccum _))]
  exact congrArg (bytesBE32 t ++ ·) ((List.append_nil _).trans (if_pos ⟨rfl, hb⟩))

/-- Settles O31: any run that does not restart the sum; the chunk's transactions are one, after the step that takes
CRC_INIT. -/
theorem streamedSumIsTheCrcOfTheBytesFed : Obligations.StreamedSumIsTheCrcOfTheBytesFed := by
  refine ⟨fun s s1 s' ts => crcOut_of_run, fun s s' t off len hb h => ?_⟩
  obtain ⟨r, hinit⟩ := exec_completes .crcInit (s.accept (chunkTxns t off len))
  have hstep : step { s with pending := wr .cmd 0x00000001 :: chunkTxns t off len } = .next r :=
    step_of_exec (x := wr .cmd 0x00000001) ((exec_wrCmd 0 0x00000001 _).trans hinit)
  have hrun : core.run 4 r = .next s' := (run_of_step hstep 4).symm.trans h
  obtain rfl := Host.Outcome.next.inj hinit
  exact (crcOut_of_run hinit (chunkTxns_restartsCrc t off len) hrun).trans (congrArg crc32 (fedAlong_chunkTxns hb))

end Sys2Proof.Machine
end

section
/-!
PROOFS. The frame commands together: PARSE reports a flipped bit (O36), and PARSE and SERIALIZE undo each other (O39,
O40).
-/
namespace Sys2Proof.Machine

/-! ## PARSE of a frame with one changed byte -/

/-- `s'` holds the IBUF bytes of `s` but the one at `j`. -/
structure IbufChangedAt (s s' : State) (j : Nat) : Prop where
  changed : s'.readByte .ibuf j ≠ s.readByte .ibuf j
  same : ∀ i, i ≠ j → s'.readByte .ibuf i = s.readByte .ibuf i

theorem IbufChangedAt.agrees {s s' : State} {j a n : Nat} (h : IbufChangedAt s s' j) (hj : j < a ∨ a + n ≤ j) :
    IbufAgrees s s' a n :=
  fun _ _ => h.same _ (by omega)

theorem IbufChangedAt.memRead_eq {s s' : State} {j a n : Nat} (h : IbufChangedAt s s' j) (hj : j < a ∨ a + n ≤ j) :
    s'.memRead .ibuf a n = s.memRead .ibuf a n :=
  (h.agrees hj).memRead (i := 0) (Nat.zero_add n).le

theorem IbufChangedAt.readBE32_eq {s s' : State} {j a : Nat} (h : IbufChangedAt s s' j) (hj : j < a ∨ a + 4 ≤ j) :
    s'.readBE32 .ibuf a = s.readBE32 .ibuf a :=
  (h.agrees hj).readBE32 (i := 0) (Nat.zero_add 4).le

theorem IbufChangedAt.readBE32_ne {s s' : State} {a m : Nat} (h : IbufChangedAt s s' (a + m)) (hm : m < 4) :
    s'.readBE32 .ibuf a ≠ s.readBE32 .ibuf a := fun heq =>
  h.changed (by rw [← State.readBE32_byte s' .ibuf a hm, heq, State.readBE32_byte s .ibuf a hm])

/-- A run of bytes over the changed one. -/
theorem IbufChangedAt.memRead_set {s s' : State} {a m : Nat} (h : IbufChangedAt s s' (a + m)) (n : Nat) :
    s'.memRead .ibuf a n = (s.memRead .ibuf a n).set m (s'.readByte .ibuf (a + m)) := by
  refine List.ext_getElem (by simp) fun i _ _ => ?_
  rw [State.memRead_getElem, List.getElem_set, State.memRead_getElem]
  split
  next him => rw [him]
  next him => exact h.same _ (by omega)

theorem IbufChangedAt.crc32_ne {s s' : State} {a m n : Nat} (h : IbufChangedAt s s' (a + m)) (hm : m < n) :
    crc32 (s'.memRead .ibuf a n) ≠ crc32 (s.memRead .ibuf a n) := by
  have hlen : m < (s.memRead .ibuf a n).length := by simpa using hm
  rw [h.memRead_set]
  exact crc32_set_ne hlen (by rw [State.memRead_getElem]; exact h.changed)

/-- PARSE reports CRC_MISMATCH where the frame fits the region and its CRC field is wrong (R181). -/
theorem exec_parse_crcMismatch {s : State} (hb : s.srcOff.toNat + s.srcLen.toNat ≤ s.config.bufBytes)
    (hfits : 12 + s.loadFrame.length.toNat ≤ s.srcLen.toNat)
    (hcrc : s.loadFrame.crcStored ≠ s.loadFrame.crcComputed) :
    exec .parse s = .next { s.loadFrame with consumed := 0, statusCode := 3, statusDetail := 0, statusOp := 0x20 } := by
  obtain ⟨_, _⟩ | ⟨_, _, _⟩ | ⟨_, _, _, _⟩ | ⟨_, _, _, h⟩ | ⟨_, _, heq, _⟩ := exec_parse_cases s
  · omega
  · omega
  · omega
  · exact h
  · exact absurd heq hcrc

/-- One changed byte after the length field spoils the agreement of the CRC field with the recomputed CRC: it is in the
CRC field, or among the bytes the CRC covers. -/
theorem loadFrame_crc_ne_of_changed {s s' : State} {j : Nat} (h : IbufChangedAt s s' j) (hoff : s'.srcOff = s.srcOff)
    (hlo : s.srcOff.toNat + 4 ≤ j) (hhi : j < s.srcOff.toNat + 12 + s.loadFrame.length.toNat)
    (hcrc : s.loadFrame.crcStored = s.loadFrame.crcComputed) :
    s'.loadFrame.length = s.loadFrame.length ∧ s'.loadFrame.crcStored ≠ s'.loadFrame.crcComputed := by
  have hlen : s'.readBE32 .ibuf s.srcOff.toNat = s.readBE32 .ibuf s.srcOff.toNat := h.readBE32_eq (.inr hlo)
  simp only [State.loadFrame, hoff, hlen, true_and] at hhi hcrc ⊢
  generalize (s.readBE32 .ibuf s.srcOff.toNat).toNat = len at hhi hcrc ⊢
  by_cases hj : j < s.srcOff.toNat + 8 + len
  · obtain ⟨m, rfl⟩ := Nat.exists_eq_add_of_le hlo
    rw [h.readBE32_eq (.inl hj), hcrc]
    exact (h.crc32_ne (by omega)).symm
  · obtain ⟨m, rfl⟩ := Nat.exists_eq_add_of_le (not_lt.1 hj)
    rw [h.memRead_eq (.inr (by omega)), ← hcrc]
    exact h.readBE32_ne (by omega)

/-- Settles O36: the changed frame has the same length, so it still fits the region, and its CRC is wrong. -/
theorem parseReportsEveryFlippedBit : Obligations.ParseReportsEveryFlippedBit := by
  intro s s' t j k h h0 hs hlo hhi hk hflip hsame
  obtain ⟨hb, hfits, hcrc, rfl⟩ := exec_parse_ok_iff.1 ⟨h, h0⟩
  obtain ⟨m, rfl⟩ : ∃ m, s' = { s with ibuf := m } := ⟨_, hs⟩
  have hchanged : IbufChangedAt s { s with ibuf := m } j := ⟨hflip ▸ flipBit_ne _ hk, hsame⟩
  obtain ⟨hlen, hne⟩ := loadFrame_crc_ne_of_changed hchanged rfl hlo hhi hcrc
  exact ⟨_, exec_parse_crcMismatch hb (hlen ▸ hfits) hne, rfl, rfl⟩

/-! ## SERIALIZE, then PARSE -/

theorem regionBytes_getElem? (s : State) {k : Nat} (hk : k < s.srcLen.toNat) :
    (regionBytes s)[k]? = some (s.readByte .ibuf (s.srcOff.toNat + k)) := by
  simp [regionBytes, hk]

/-- Settles O39: the copy is a frame at the start of the region, which PARSE accepts and takes apart. -/
theorem parseOfSerializeIsTheChunk : Obligations.ParseOfSerializeIsTheChunk := by
  intro s s1 s2 a hlegal h h0 hfits hs2 hcopy
  obtain ⟨-, hcap, rfl⟩ := exec_serialize_ok_iff.1 ⟨h, h0⟩
  have hsize := hlegal.2
  have houtLen : s.storeFrame.outLen.toNat = 12 + s.srcLen.toNat := Nat.mod_eq_of_lt (by omega)
  have hconfig : s2.config = s.config := (congrArg State.config hs2 :)
  have hsrcLen : s2.srcLen = s.storeFrame.outLen := (congrArg State.srcLen hs2 :)
  have hsrcOff : s2.srcOff.toNat = a :=
    (congrArg (fun u : State => u.srcOff.toNat) hs2 :).trans (Nat.mod_eq_of_lt (by omega))
  have hregion := regionBytes_length s
  have hframe (k : Nat) (hk : k < 12 + (regionBytes s).length) :
      (frame s.typeReg (regionBytes s))[k]? = some (s2.readByte .ibuf (s2.srcOff.toNat + k)) := by
    rw [State.holds_iff_getElem?.1 s.storeFrame_holds k (by rwa [frame_length]), hsrcOff,
      hcopy k (by simpa only [houtLen, hregion] using hk), Nat.zero_add]
    rfl
  obtain ⟨hexec, hpayload⟩ := parseAcceptsEveryFrame s2 s.typeReg (regionBytes s)
    (by rw [hsrcOff, hsrcLen, hconfig]; exact hfits) (by rw [hsrcLen, houtLen, hregion]) hframe
  refine ⟨_, hexec, rfl, rfl, ?_, rfl, rfl, rfl, rfl, congrArg (fun n => BitVec.ofNat 32 (12 + n)) hregion,
    fun k hk => ?_⟩
  · rw [hregion, BitVec.ofNat_toNat, BitVec.setWidth_eq]
    rfl
  · have hbyte := hpayload k (hk.trans_eq hregion.symm)
    rw [regionBytes_getElem? s hk, hsrcOff] at hbyte
    exact (Option.some.inj hbyte).symm

/-! ## PARSE, then SERIALIZE -/

/-- Where the CRC field agrees, the bytes PARSE reads are the frame of the parts it loads (R180, R181). -/
theorem State.holds_frame_of_loadFrame {s : State} (hcrc : s.loadFrame.crcStored = s.loadFrame.crcComputed) :
    s.Holds .ibuf s.srcOff.toNat (frame s.loadFrame.typeReg
      (s.memRead .ibuf (s.srcOff.toNat + 8) s.loadFrame.length.toNat)) := by
  have htype : s.memRead .ibuf (s.srcOff.toNat + 4) 4 = bytesBE32 s.loadFrame.typeReg :=
    State.holds_bytesBE32.2 rfl
  refine State.holds_frame.2 ⟨?_, rfl, ?_, ?_⟩
  · rw [State.memRead_length, BitVec.ofNat_toNat, BitVec.setWidth_eq]
    rfl
  · rw [State.Holds, State.memRead_length]
  · rw [State.memRead_length, ← htype, ← State.memRead_add]
    exact hcrc

/-- Two buffers that hold the same bytes agree byte by byte. -/
theorem State.Holds.readByte_eq {s s' : State} {b b' : Buffer} {a a' k : Nat} {bs : List Byte} (h : s.Holds b a bs)
    (h' : s'.Holds b' a' bs) (hk : k < bs.length) : s.readByte b (a + k) = s'.readByte b' (a' + k) :=
  Option.some.inj ((State.holds_iff_getElem?.1 h k hk).symm.trans (State.holds_iff_getElem?.1 h' k hk))

/-- Settles O40: IBUF holds the frame of what PARSE loaded, and SERIALIZE stores the frame of the same parts. -/
theorem serializeOfParseIsTheFrame : Obligations.SerializeOfParseIsTheFrame := by
  intro s t u hlegal h h0 hu
  obtain ⟨hb, hfits, hcrc, rfl⟩ := exec_parse_ok_iff.1 ⟨h, h0⟩
  have hsize := hlegal.2
  have hsrcOff : u.srcOff.toNat = s.srcOff.toNat + 8 :=
    (congrArg (fun u : State => u.srcOff.toNat) hu :).trans (Nat.mod_eq_of_lt (by omega))
  have hsrcLen : u.srcLen = s.loadFrame.length := (congrArg State.srcLen hu :)
  have hconfig : u.config = s.config := (congrArg State.config hu :)
  have htype : u.typeReg = s.loadFrame.typeReg := (congrArg State.typeReg hu :)
  have hregion : regionBytes u = s.memRead .ibuf (s.srcOff.toNat + 8) s.loadFrame.length.toNat := by
    rw [← State.region_eq_regionBytes, State.region, hsrcOff, hsrcLen, hu]
    rfl
  obtain ⟨hexec, -⟩ := exec_serialize_ok_iff.2 ⟨by rw [hsrcOff, hsrcLen, hconfig]; omega,
    by rw [hsrcLen, hconfig]; omega, rfl⟩
  refine ⟨_, hexec, rfl, rfl, congrArg (fun n : Word => BitVec.ofNat 32 (12 + n.toNat)) hsrcLen, fun k hk => ?_⟩
  have hstored := u.storeFrame_holds
  rw [htype, hregion] at hstored
  have hbyte := hstored.readByte_eq (State.holds_frame_of_loadFrame hcrc) (k := k) (by
    rw [frame_length, State.memRead_length]
    exact hk.trans_le (Nat.mod_le _ _))
  rwa [Nat.zero_add] at hbyte

end Sys2Proof.Machine
end
